-- ==== Sys2Proof/Word.lean ====
section
/-! DEFINITION. The bit-vector types of the CHIP-8 CORE: 8-bit data, 16-bit instruction words, 12-bit addresses, 4-bit fields (spec 00_scope.md R1, R10; 30_encoding.md R91). -/

namespace Sys2Proof

/-- An 8-bit value: a general register, a timer, a memory cell, the immediate `nn` (R20, R32, R60, R91). -/
abbrev Byte := BitVec 8

/-- A 16-bit value: an instruction word, the index register, a stack entry (R90, R27, R29). -/
abbrev Word := BitVec 16

/-- A 12-bit address: the program counter, the immediate `nnn` (R23, R91). -/
abbrev Addr := BitVec 12

/-- A register number: the fields `x` and `y` of an instruction word (R91). -/
abbrev RegNum := BitVec 4

/-- A 4-bit quantity: the count `n` of DXYN, a key number (R91, R14). -/
abbrev Nibble := BitVec 4

end Sys2Proof
end

