-- ==== Sys2Proof/Config.lean ====
section
/-! DEFINITION. What an implementation leaves open: the random source of CXNN. The fixed parameters of 00_scope.md R8 are in Machine/Params.lean. -/

namespace Sys2Proof

/-- The byte the random source supplies for draw number `k` (00_scope.md R8 parameter `RND`, 40_alu.md R123, decision D17). A FREE VALUE: it has no body, so no proof can learn any value of it. The number `k` is `State.draws`, the count of bytes drawn before (log 4). -/
opaque Config.rnd : Nat → Byte

end Sys2Proof
end

