-- ==== Sys2Proof/Syntax.lean ====
section
/-! DEFINITION. The instructions of the CHIP-8 CORE, one constructor per row of spec/opcode_table.json, in the table's order (30_encoding.md R99). -/

namespace Sys2Proof

/-- The 34 instructions (R99). The operand types have exactly the widths of the fields of R91, so no field value is refused (R102). SHR and SHL carry no `y`: every value of that field selects the same operation (R96, decision D31, log 30). -/
inductive Instr where
  /-- 00E0 CLS: clear the screen (R163). -/
  | cls
  /-- 00EE RET: return from a subroutine (R141). -/
  | ret
  /-- 1NNN JP nnn: jump (R142). -/
  | jp (nnn : Addr)
  /-- 2NNN CALL nnn: call a subroutine (R143). -/
  | call (nnn : Addr)
  /-- 3XNN SE Vx, nn: skip if equal to an immediate (R145). -/
  | seImm (x : RegNum) (nn : Byte)
  /-- 4XNN SNE Vx, nn: skip if different from an immediate (R146). -/
  | sneImm (x : RegNum) (nn : Byte)
  /-- 5XY0 SE Vx, Vy: skip if equal (R147). -/
  | seReg (x y : RegNum)
  /-- 6XNN LD Vx, nn: load an immediate (R112). -/
  | ldImm (x : RegNum) (nn : Byte)
  /-- 7XNN ADD Vx, nn: add an immediate without carry (R113). -/
  | addImm (x : RegNum) (nn : Byte)
  /-- 8XY0 LD Vx, Vy: copy a register (R114). -/
  | ldReg (x y : RegNum)
  /-- 8XY1 OR Vx, Vy (R115). -/
  | orReg (x y : RegNum)
  /-- 8XY2 AND Vx, Vy (R116). -/
  | andReg (x y : RegNum)
  /-- 8XY3 XOR Vx, Vy (R117). -/
  | xorReg (x y : RegNum)
  /-- 8XY4 ADD Vx, Vy: add with carry into VF (R118). -/
  | addReg (x y : RegNum)
  /-- 8XY5 SUB Vx, Vy (R119). -/
  | subReg (x y : RegNum)
  /-- 8XY6 SHR Vx: shift right by one, `y` ignored (R120). -/
  | shr (x : RegNum)
  /-- 8XY7 SUBN Vx, Vy: subtract reversed (R121). -/
  | subnReg (x y : RegNum)
  /-- 8XYE SHL Vx: shift left by one, `y` ignored (R122). -/
  | shl (x : RegNum)
  /-- 9XY0 SNE Vx, Vy: skip if different (R148). -/
  | sneReg (x y : RegNum)
  /-- ANNN LD I, nnn: load the index register (R201). -/
  | ldI (nnn : Addr)
  /-- BNNN JP V0, nnn: jump with offset (R144). -/
  | jpV0 (nnn : Addr)
  /-- CXNN RND Vx, nn: masked random byte (R123). -/
  | rnd (x : RegNum) (nn : Byte)
  /-- DXYN DRW Vx, Vy, n: draw a sprite (R164). -/
  | drw (x y : RegNum) (n : Nibble)
  /-- EX9E SKP Vx: skip if the key is down (R181). -/
  | skp (x : RegNum)
  /-- EXA1 SKNP Vx: skip if the key is up (R182). -/
  | sknp (x : RegNum)
  /-- FX07 LD Vx, DT: read the delay timer (R183). -/
  | ldVxDT (x : RegNum)
  /-- FX0A LD Vx, K: wait for a key (R184). -/
  | ldVxK (x : RegNum)
  /-- FX15 LD DT, Vx: set the delay timer (R186). -/
  | ldDTVx (x : RegNum)
  /-- FX18 LD ST, Vx: set the sound timer (R187). -/
  | ldSTVx (x : RegNum)
  /-- FX1E ADD I, Vx: add a register to the index register (R202). -/
  | addI (x : RegNum)
  /-- FX29 LD F, Vx: point I at a font glyph (R203). -/
  | ldF (x : RegNum)
  /-- FX33 LD B, Vx: store three decimal digits (R204). -/
  | ldB (x : RegNum)
  /-- FX55 LD [I], Vx: store V0 to Vx (R205). -/
  | stRegs (x : RegNum)
  /-- FX65 LD Vx, [I]: load V0 to Vx (R206). -/
  | ldRegs (x : RegNum)
  deriving DecidableEq, Repr

end Sys2Proof
end

