-- ==== Sys2Proof/WellFormed.lean ====
section
/-! DEFINITION. Which instruction words are well-formed: the opcode table of 30_encoding.md R99 as data, a row being a pattern and a mask.

Well-formedness is a property of WORDS here. The operands of an `Instr` have exactly the widths of the fields of R91, and R102 says that field values are never refused inside a legal row, so every term of `Instr` is well-formed by its type. The one check the spec makes is that a word matches a row; the words that match none are the illegal words of R100. -/

namespace Sys2Proof

/-- One row of the opcode table: a word matches it when `word & mask = pattern` (R99). -/
structure Row where
  pattern : Word
  mask : Word
  deriving DecidableEq, Repr

/-- `(op & mask) = match` (R99). -/
def Row.accepts (r : Row) (w : Word) : Bool := w &&& r.mask == r.pattern

/-- The row of the opcode table an instruction belongs to (R99). -/
def Instr.row : Instr → Row
  | .cls => ⟨0x00E0#16, 0xFFFF#16⟩
  | .ret => ⟨0x00EE#16, 0xFFFF#16⟩
  | .jp _ => ⟨0x1000#16, 0xF000#16⟩
  | .call _ => ⟨0x2000#16, 0xF000#16⟩
  | .seImm _ _ => ⟨0x3000#16, 0xF000#16⟩
  | .sneImm _ _ => ⟨0x4000#16, 0xF000#16⟩
  | .seReg _ _ => ⟨0x5000#16, 0xF00F#16⟩
  | .ldImm _ _ => ⟨0x6000#16, 0xF000#16⟩
  | .addImm _ _ => ⟨0x7000#16, 0xF000#16⟩
  | .ldReg _ _ => ⟨0x8000#16, 0xF00F#16⟩
  | .orReg _ _ => ⟨0x8001#16, 0xF00F#16⟩
  | .andReg _ _ => ⟨0x8002#16, 0xF00F#16⟩
  | .xorReg _ _ => ⟨0x8003#16, 0xF00F#16⟩
  | .addReg _ _ => ⟨0x8004#16, 0xF00F#16⟩
  | .subReg _ _ => ⟨0x8005#16, 0xF00F#16⟩
  | .shr _ => ⟨0x8006#16, 0xF00F#16⟩
  | .subnReg _ _ => ⟨0x8007#16, 0xF00F#16⟩
  | .shl _ => ⟨0x800E#16, 0xF00F#16⟩
  | .sneReg _ _ => ⟨0x9000#16, 0xF00F#16⟩
  | .ldI _ => ⟨0xA000#16, 0xF000#16⟩
  | .jpV0 _ => ⟨0xB000#16, 0xF000#16⟩
  | .rnd _ _ => ⟨0xC000#16, 0xF000#16⟩
  | .drw _ _ _ => ⟨0xD000#16, 0xF000#16⟩
  | .skp _ => ⟨0xE09E#16, 0xF0FF#16⟩
  | .sknp _ => ⟨0xE0A1#16, 0xF0FF#16⟩
  | .ldVxDT _ => ⟨0xF007#16, 0xF0FF#16⟩
  | .ldVxK _ => ⟨0xF00A#16, 0xF0FF#16⟩
  | .ldDTVx _ => ⟨0xF015#16, 0xF0FF#16⟩
  | .ldSTVx _ => ⟨0xF018#16, 0xF0FF#16⟩
  | .addI _ => ⟨0xF01E#16, 0xF0FF#16⟩
  | .ldF _ => ⟨0xF029#16, 0xF0FF#16⟩
  | .ldB _ => ⟨0xF033#16, 0xF0FF#16⟩
  | .stRegs _ => ⟨0xF055#16, 0xF0FF#16⟩
  | .ldRegs _ => ⟨0xF065#16, 0xF0FF#16⟩

/-- Group 0 and the address rows 1NNN, 2NNN, ANNN, BNNN (R99). -/
def rowsAddress : List Row :=
  [⟨0x00E0#16, 0xFFFF#16⟩,
   ⟨0x00EE#16, 0xFFFF#16⟩,
   ⟨0x1000#16, 0xF000#16⟩,
   ⟨0x2000#16, 0xF000#16⟩,
   ⟨0xA000#16, 0xF000#16⟩,
   ⟨0xB000#16, 0xF000#16⟩]

/-- The register-and-byte rows 3XNN, 4XNN, 6XNN, 7XNN, CXNN (R99). -/
def rowsByte : List Row :=
  [⟨0x3000#16, 0xF000#16⟩,
   ⟨0x4000#16, 0xF000#16⟩,
   ⟨0x6000#16, 0xF000#16⟩,
   ⟨0x7000#16, 0xF000#16⟩,
   ⟨0xC000#16, 0xF000#16⟩]

/-- The two-register rows 5XY0, 8XY0 to 8XYE, 9XY0, and DXYN (R99). -/
def rowsRegister : List Row :=
  [⟨0x5000#16, 0xF00F#16⟩,
   ⟨0x8000#16, 0xF00F#16⟩,
   ⟨0x8001#16, 0xF00F#16⟩,
   ⟨0x8002#16, 0xF00F#16⟩,
   ⟨0x8003#16, 0xF00F#16⟩,
   ⟨0x8004#16, 0xF00F#16⟩,
   ⟨0x8005#16, 0xF00F#16⟩,
   ⟨0x8006#16, 0xF00F#16⟩,
   ⟨0x8007#16, 0xF00F#16⟩,
   ⟨0x800E#16, 0xF00F#16⟩,
   ⟨0x9000#16, 0xF00F#16⟩,
   ⟨0xD000#16, 0xF000#16⟩]

/-- The rows of groups E and F (R99). -/
def rowsFunction : List Row :=
  [⟨0xE09E#16, 0xF0FF#16⟩,
   ⟨0xE0A1#16, 0xF0FF#16⟩,
   ⟨0xF007#16, 0xF0FF#16⟩,
   ⟨0xF00A#16, 0xF0FF#16⟩,
   ⟨0xF015#16, 0xF0FF#16⟩,
   ⟨0xF018#16, 0xF0FF#16⟩,
   ⟨0xF01E#16, 0xF0FF#16⟩,
   ⟨0xF029#16, 0xF0FF#16⟩,
   ⟨0xF033#16, 0xF0FF#16⟩,
   ⟨0xF055#16, 0xF0FF#16⟩,
   ⟨0xF065#16, 0xF0FF#16⟩]

/-- The 34 rows of R99. -/
def opcodeTable : List Row := rowsAddress ++ rowsByte ++ rowsRegister ++ rowsFunction

/-- A word is well-formed when it matches a row of the opcode table; otherwise it is illegal (R100). -/
def legalWord (w : Word) : Bool := opcodeTable.any (fun r => r.accepts w)

end Sys2Proof
end

