-- ==== Sys2Proof/Decode.lean ====
section
/-! DEFINITION. Decoding, total on every word and on every list of bytes, and the encoder (30_encoding.md R90 to R102). -/

namespace Sys2Proof

/-- Why bytes do not decode. -/
inductive DecodeError where
  /-- The word matches no row of the opcode table (R100). -/
  | unrecognizedOpcode (w : Word)
  /-- Fewer than two bytes: no whole instruction word (R90). -/
  | truncated
  deriving DecidableEq, Repr

/-- `g = op[15:12]`, the primary group (R91). -/
def fieldG (w : Word) : Nibble := w.extractLsb' 12 4

/-- `x = op[11:8]` (R91). -/
def fieldX (w : Word) : RegNum := w.extractLsb' 8 4

/-- `y = op[7:4]` (R91). -/
def fieldY (w : Word) : RegNum := w.extractLsb' 4 4

/-- `n = op[3:0]` (R91). -/
def fieldN (w : Word) : Nibble := w.extractLsb' 0 4

/-- `nn = op[7:0]` (R91). -/
def fieldNN (w : Word) : Byte := w.extractLsb' 0 8

/-- `nnn = op[11:0]` (R91). -/
def fieldNNN (w : Word) : Addr := w.extractLsb' 0 12

/-- Group 0: exactly CLS and RET; every other group-0 word, 0NNN included, is illegal (R95). -/
def decodeGroup0 (w : Word) : Option Instr :=
  if w = 0x00E0#16 then some .cls
  else if w = 0x00EE#16 then some .ret
  else none

/-- Group 8 selects by `n` (R96). -/
def decodeGroup8 (n : Nibble) (x y : RegNum) : Option Instr :=
  match n with
  | 0x0#4 => some (.ldReg x y)
  | 0x1#4 => some (.orReg x y)
  | 0x2#4 => some (.andReg x y)
  | 0x3#4 => some (.xorReg x y)
  | 0x4#4 => some (.addReg x y)
  | 0x5#4 => some (.subReg x y)
  | 0x6#4 => some (.shr x)
  | 0x7#4 => some (.subnReg x y)
  | 0xE#4 => some (.shl x)
  | _ => none

/-- Group E selects by `nn` (R97). -/
def decodeGroupE (nn : Byte) (x : RegNum) : Option Instr :=
  match nn with
  | 0x9E#8 => some (.skp x)
  | 0xA1#8 => some (.sknp x)
  | _ => none

/-- Group F selects by `nn` (R98). -/
def decodeGroupF (nn : Byte) (x : RegNum) : Option Instr :=
  match nn with
  | 0x07#8 => some (.ldVxDT x)
  | 0x0A#8 => some (.ldVxK x)
  | 0x15#8 => some (.ldDTVx x)
  | 0x18#8 => some (.ldSTVx x)
  | 0x1E#8 => some (.addI x)
  | 0x29#8 => some (.ldF x)
  | 0x33#8 => some (.ldB x)
  | 0x55#8 => some (.stRegs x)
  | 0x65#8 => some (.ldRegs x)
  | _ => none

/-- The opcode map, on the primary group first (R94). -/
def decodeOption (w : Word) : Option Instr :=
  match fieldG w with
  | 0x0#4 => decodeGroup0 w
  | 0x1#4 => some (.jp (fieldNNN w))
  | 0x2#4 => some (.call (fieldNNN w))
  | 0x3#4 => some (.seImm (fieldX w) (fieldNN w))
  | 0x4#4 => some (.sneImm (fieldX w) (fieldNN w))
  | 0x5#4 => if fieldN w = 0x0#4 then some (.seReg (fieldX w) (fieldY w)) else none
  | 0x6#4 => some (.ldImm (fieldX w) (fieldNN w))
  | 0x7#4 => some (.addImm (fieldX w) (fieldNN w))
  | 0x8#4 => decodeGroup8 (fieldN w) (fieldX w) (fieldY w)
  | 0x9#4 => if fieldN w = 0x0#4 then some (.sneReg (fieldX w) (fieldY w)) else none
  | 0xA#4 => some (.ldI (fieldNNN w))
  | 0xB#4 => some (.jpV0 (fieldNNN w))
  | 0xC#4 => some (.rnd (fieldX w) (fieldNN w))
  | 0xD#4 => some (.drw (fieldX w) (fieldY w) (fieldN w))
  | 0xE#4 => decodeGroupE (fieldNN w) (fieldX w)
  | 0xF#4 => decodeGroupF (fieldNN w) (fieldX w)
  | _ => none

/-- Decode a word: exactly one instruction, or UnrecognizedOpcode with the word (R100, R102). -/
def decode (w : Word) : Except DecodeError Instr :=
  match decodeOption w with
  | some i => .ok i
  | none => .error (.unrecognizedOpcode w)

/-- The word two bytes make, the byte at the lower address being bits 15:8 (R90, 20_memory.md R66). -/
def joinBytes (hi lo : Byte) : Word := hi ++ lo

/-- Bits 15:8 of a word (R64). -/
def highByte (w : Word) : Byte := w.extractLsb' 8 8

/-- Bits 7:0 of a word (R64). -/
def lowByte (w : Word) : Byte := w.extractLsb' 0 8

/-- The bytes of a word in memory order: big-endian (R66). -/
def wordBytes (w : Word) : List Byte := [highByte w, lowByte w]

/-- Decode the instruction at the front of a list of bytes, and give the rest (R90). -/
def decodeBytes : List Byte → Except DecodeError (Instr × List Byte)
  | hi :: lo :: rest =>
    match decode (joinBytes hi lo) with
    | .ok i => .ok (i, rest)
    | .error e => .error e
  | _ => .error .truncated

/-- Formats `FA`: a group and a 12-bit address (R92). -/
def encodeFA (g : Nibble) (nnn : Addr) : Word := g ++ nnn

/-- Format `FB`: a group, a register and a byte (R92). -/
def encodeFB (g : Nibble) (x : RegNum) (nn : Byte) : Word := g ++ x ++ nn

/-- Formats `FR` and `FD`: a group, two registers and a function or count (R92). -/
def encodeFR (g : Nibble) (x y : RegNum) (n : Nibble) : Word := g ++ x ++ y ++ n

/-- Format `FX`: a group, a register and a function byte (R92). -/
def encodeFX (g : Nibble) (x : RegNum) (f : Byte) : Word := g ++ x ++ f

/-- The word of an instruction, from the encoding table (R92, R99). SHR and SHL, whose `y` field is ignored (D31), are encoded with `y = 0`. -/
def encode : Instr → Word
  | .cls => 0x00E0#16
  | .ret => 0x00EE#16
  | .jp nnn => encodeFA 0x1#4 nnn
  | .call nnn => encodeFA 0x2#4 nnn
  | .seImm x nn => encodeFB 0x3#4 x nn
  | .sneImm x nn => encodeFB 0x4#4 x nn
  | .seReg x y => encodeFR 0x5#4 x y 0x0#4
  | .ldImm x nn => encodeFB 0x6#4 x nn
  | .addImm x nn => encodeFB 0x7#4 x nn
  | .ldReg x y => encodeFR 0x8#4 x y 0x0#4
  | .orReg x y => encodeFR 0x8#4 x y 0x1#4
  | .andReg x y => encodeFR 0x8#4 x y 0x2#4
  | .xorReg x y => encodeFR 0x8#4 x y 0x3#4
  | .addReg x y => encodeFR 0x8#4 x y 0x4#4
  | .subReg x y => encodeFR 0x8#4 x y 0x5#4
  | .shr x => encodeFR 0x8#4 x 0x0#4 0x6#4
  | .subnReg x y => encodeFR 0x8#4 x y 0x7#4
  | .shl x => encodeFR 0x8#4 x 0x0#4 0xE#4
  | .sneReg x y => encodeFR 0x9#4 x y 0x0#4
  | .ldI nnn => encodeFA 0xA#4 nnn
  | .jpV0 nnn => encodeFA 0xB#4 nnn
  | .rnd x nn => encodeFB 0xC#4 x nn
  | .drw x y n => encodeFR 0xD#4 x y n
  | .skp x => encodeFX 0xE#4 x 0x9E#8
  | .sknp x => encodeFX 0xE#4 x 0xA1#8
  | .ldVxDT x => encodeFX 0xF#4 x 0x07#8
  | .ldVxK x => encodeFX 0xF#4 x 0x0A#8
  | .ldDTVx x => encodeFX 0xF#4 x 0x15#8
  | .ldSTVx x => encodeFX 0xF#4 x 0x18#8
  | .addI x => encodeFX 0xF#4 x 0x1E#8
  | .ldF x => encodeFX 0xF#4 x 0x29#8
  | .ldB x => encodeFX 0xF#4 x 0x33#8
  | .stRegs x => encodeFX 0xF#4 x 0x55#8
  | .ldRegs x => encodeFX 0xF#4 x 0x65#8

/-- The bytes of an instruction in memory order (R90). -/
def encodeBytes (i : Instr) : List Byte := wordBytes (encode i)

/-- The word whose bits, numbered as spec/opcode_table.json numbers them, are the low `nbits` bits of `w`; the bits above are zero. -/
def tableWord (nbits w : Nat) : Word := BitVec.ofNat 16 (w % 2 ^ nbits)

/-- What the decoder reads from an instruction whose bits are `w`: the word is laid out big-endian and decoded from its bytes. -/
def decodeTableWord (nbits w : Nat) : Option Instr :=
  match decodeBytes (wordBytes (tableWord nbits w)) with
  | .ok (i, _) => some i
  | .error _ => none

end Sys2Proof
end

