-- ==== Sys2Proof/Machine/Params.lean ====
section
/-! DEFINITION. The fixed parameters of the hardware (00_scope.md R8), and the default of its parameter FONT (10_state.md R39). -/

namespace Sys2Proof.Machine

/-- `MEM_SIZE`: 4096 bytes (R8, R60). -/
def memSize : Nat := 4096

/-- `ADDR_MAX`: the highest byte address (R8, R65). -/
def addrMax : Nat := 0xFFF

/-- `SP_EMPTY`: the sentinel of the empty stack (R8, R28). -/
def spEmpty : Nat := 0x4E

/-- `SP_MAX`: the last stack slot (R8, decision D4, conflict C1). -/
def spMax : Nat := 0x6C

/-- `PROG_BASE`: where a ROM is loaded (R8, R264). -/
def progBase : Nat := 0x200

/-- `DISP_W`: columns of the framebuffer (R8, R30). -/
def dispW : Nat := 64

/-- `DISP_H`: rows of the framebuffer (R8, R30). -/
def dispH : Nat := 32

/-- `FONT_BASE`: where a reset installs the font (R8, R39). -/
def fontBase : Nat := 0x000

/-- Glyphs 0 to 7 (R39). -/
def fontLow : List Byte :=
  [0xF0, 0x90, 0x90, 0x90, 0xF0,
   0x20, 0x60, 0x20, 0x20, 0x70,
   0xF0, 0x10, 0xF0, 0x80, 0xF0,
   0xF0, 0x10, 0xF0, 0x10, 0xF0,
   0x90, 0x90, 0xF0, 0x10, 0x10,
   0xF0, 0x80, 0xF0, 0x10, 0xF0,
   0xF0, 0x80, 0xF0, 0x90, 0xF0,
   0xF0, 0x10, 0x20, 0x40, 0x40]

/-- Glyphs 8 to F (R39). -/
def fontHigh : List Byte :=
  [0xF0, 0x90, 0xF0, 0x90, 0xF0,
   0xF0, 0x90, 0xF0, 0x10, 0xF0,
   0xF0, 0x90, 0xF0, 0x90, 0x90,
   0xE0, 0x90, 0xE0, 0x90, 0xE0,
   0xF0, 0x80, 0x80, 0x80, 0xF0,
   0xE0, 0x90, 0x90, 0x90, 0xE0,
   0xF0, 0x80, 0xF0, 0x80, 0xF0,
   0xF0, 0x80, 0xF0, 0x80, 0x80]

/-- The bytes of R39's table: 16 glyphs of 5 bytes, glyph `k` at bytes `5k` to `5k+4`. The spec gives them from general knowledge (log 2). -/
def fontTable : List Byte := fontLow ++ fontHigh

/-- What the parameter `FONT` of R8 ranges over: any 80 bytes. The machine's own font is `State.font`. -/
abbrev Font := Vector Byte 80

/-- The default of the parameter `FONT` (R8, R39). -/
def defaultFont : Font := ⟨⟨fontTable⟩, rfl⟩

end Sys2Proof.Machine
end

