-- ==== Sys2Proof/Machine/Framebuffer.lean ====
section
/-! DEFINITION. The 32 by 64 one-bit framebuffer and the sprite row primitive (10_state.md R30; 42_display.md R160 to R162). -/

namespace Sys2Proof.Machine

/-- `Disp[r][c]`: row `r` in 0..31 from the top, column `c` in 0..63 from the left (R30). -/
abbrev Framebuffer := Vector (Vector Bool 64) 32

/-- Every cell 0 (R162). -/
def Framebuffer.blank : Framebuffer := Vector.replicate 32 (Vector.replicate 64 false)

/-- The cell in a row and a column; there is no set cell outside the 32 by 64 (R30). -/
def Framebuffer.cell (d : Framebuffer) (r c : Nat) : Bool :=
  if h : r < 32 ∧ c < 64 then (d[r]'h.1)[c]'h.2 else false

/-- `Disp[r][c] <- Disp[r][c] ^ 1`; outside the 32 by 64 there is nothing to toggle (R161). -/
def Framebuffer.toggle (d : Framebuffer) (r c : Nat) : Framebuffer :=
  if h : r < 32 ∧ c < 64 then d.set r ((d[r]'h.1).set c (!(d[r]'h.1)[c]'h.2) h.2) h.1 else d

/-- Bit `j` of a sprite row counted from the left: bit 7 of the byte is the leftmost cell (R160). -/
def spriteBit (b : Byte) (j : Nat) : Bool := b.getLsbD (7 - j)

/-- One round of the loop of `DrawRow`: sprite bit `j` onto column `c0 + j`, clipped past column 63; a collision is a set cell being cleared (R161). -/
def drawBit (r c0 : Nat) (b : Byte) (acc : Framebuffer × Bool) (j : Nat) : Framebuffer × Bool :=
  if c0 + j < dispW ∧ spriteBit b j = true then
    (acc.1.toggle r (c0 + j), acc.2 || acc.1.cell r (c0 + j))
  else acc

/-- `DrawRow(r, c0, b)`: a row past 31 is skipped (R161). -/
def drawRow (d : Framebuffer) (r c0 : Nat) (b : Byte) : Framebuffer × Bool :=
  if r < dispH then (List.range 8).foldl (drawBit r c0 b) (d, false) else (d, false)

/-- The second loop of DXYN: the rows at `r0`, `r0 + 1`, ..., the collisions of all of them joined (R164, R165). -/
def drawRows (d : Framebuffer) (r0 c0 : Nat) : List Byte → Framebuffer × Bool
  | [] => (d, false)
  | b :: bs =>
    let one := drawRow d r0 c0 b
    let more := drawRows one.1 (r0 + 1) c0 bs
    (more.1, one.2 || more.2)

end Sys2Proof.Machine
end

