-- ==== Sys2Proof/Machine/Memory.lean ====
section
/-! DEFINITION. The 4096-byte memory as a list of (address, byte) cells in one canonical form, and its byte operations (20_memory.md R60 to R62). -/

namespace Sys2Proof.Machine

/-- The memory: the cells that differ from their reset contents under the default font, addresses strictly rising (R60). -/
abbrev Memory := List Host.Cell

/-- What an address no cell lists reads as: its contents after reset under the default font, which stands at 0x000 to 0x04F, and 0x00 above (R40, R260, log 1). A machine with another font has cells for the bytes that differ (`State.resetWith`). -/
def Memory.unlisted (a : Nat) : Byte := fontTable.getD a 0x00#8

/-- `Mem[a]`, the byte at an address (R60). -/
def Memory.get : Memory → Nat → Byte
  | [], a => Memory.unlisted a
  | (b, v) :: m, a => if b = a then v else Memory.get m a

/-- Put a cell in front of the first cell with a greater address. -/
def Memory.insertCell (a : Nat) (v : Byte) : Memory → Memory
  | [] => [(a, v)]
  | (b, w) :: m => if a < b then (a, v) :: (b, w) :: m else (b, w) :: Memory.insertCell a v m

/-- The memory with no cell for an address. -/
def Memory.dropCell (m : Memory) (a : Nat) : Memory := m.filter (fun c => c.1 != a)

/-- `Mem[a] <- v` (R62). Writing what an unlisted address reads as removes the cell. -/
def Memory.put (m : Memory) (a : Nat) (v : Byte) : Memory :=
  if v = Memory.unlisted a then m.dropCell a else Memory.insertCell a v (m.dropCell a)

/-- Write bytes at consecutive addresses, lowest first (R204, R205). -/
def Memory.putList (m : Memory) (a : Nat) : List Byte → Memory
  | [] => m
  | v :: vs => (m.put a v).putList (a + 1) vs

/-- The bytes at consecutive addresses, lowest first (R206, R244). -/
def Memory.getList (m : Memory) (a : Nat) : Nat → List Byte
  | 0 => []
  | n + 1 => m.get a :: m.getList (a + 1) n

/-- A cell of the canonical form: inside the address space, and not what its address reads as unlisted. -/
def Memory.cellOk (c : Host.Cell) : Bool := decide (c.1 ≤ addrMax) && c.2 != Memory.unlisted c.1

/-- The canonical form: addresses strictly rising, every cell inside 0x000 to 0xFFF and different from its reset contents. -/
def Memory.wf : Memory → Bool
  | [] => true
  | c :: m => Memory.cellOk c && m.all (fun d => decide (c.1 < d.1)) && Memory.wf m

end Sys2Proof.Machine
end

