-- ==== Sys2Proof/Machine/State.lean ====
section
/-! DEFINITION. The state of the machine as plain data, the ways a step can stop, and the state after reset (10_state.md R20 to R42). -/

namespace Sys2Proof.Machine

/-- The engine state `estate` (R33). -/
inductive EngineState where
  /-- Normal fetch, decode and execute. -/
  | ready
  /-- Blocked on FX0A until a key-down event. -/
  | waitingForKey
  /-- Stopped by an error; left only by reset or ROM load. -/
  | halted
  deriving DecidableEq, Repr

/-- The kind of a recorded error, `err_kind` (R36, R225). -/
inductive ErrKind where
  /-- Code 0: no error recorded. -/
  | none
  /-- Code 1: a byte address above 0xFFF was accessed (R221). -/
  | addressOutOfRange
  /-- Code 2: a push with SP at its last slot (R222). -/
  | stackOverflow
  /-- Code 3: a pop of the empty stack (R223). -/
  | stackUnderflow
  /-- Code 4: a word that matches no row of the instruction table (R224). -/
  | unrecognizedOpcode
  deriving DecidableEq, Repr

/-- A raised error `E(info)` (R11, R220). -/
structure Err where
  kind : ErrKind
  /-- What `err_addr` records of it (R226). -/
  info : BitVec 17
  deriving DecidableEq, Repr

/-- One event of the block (60_exceptions.md R246). -/
inductive Event where
  /-- A full step of the engine (R243). -/
  | step
  /-- The single-fetch half-step (R241). -/
  | fetch
  /-- The single-execute half-step (R242). -/
  | execute
  /-- The timer tick (R237). -/
  | tick
  /-- A key event: a key code, of which the low 4 bits count (R180, R236), and whether it went down. -/
  | key (code : Byte) (down : Bool)
  /-- Reset (R238). -/
  | reset
  /-- Load a ROM and reset (R239). -/
  | loadRom (rom : List Byte)
  /-- Read a snapshot with a memory slice of `len` bytes from `base` (R244). -/
  | snapshot (base len : Nat)
  deriving DecidableEq, Repr

/-- The state of the block, its parameter FONT (`font`), and two fields of the model's own (`draws`, `inbox`). -/
structure State where
  /-- V0 to VF; VF is also the flag register (R20, R21). -/
  v : Vector Byte 16
  /-- The index register I, all 16 bits kept (R27). -/
  i : Word
  /-- The program counter (R23). -/
  pc : Addr
  /-- The stack pointer, a byte address in memory (R28). -/
  sp : Byte
  /-- The delay timer DT (R32). -/
  dt : Byte
  /-- The sound timer ST (R32). -/
  st : Byte
  /-- The memory, the call stack in it (R29, R60). -/
  mem : Memory
  /-- The framebuffer (R30). -/
  disp : Framebuffer
  /-- The keypad latch: `true` is down (R31). -/
  keys : Vector Bool 16
  /-- The engine state (R33). -/
  estate : EngineState
  /-- The pending key-wait register, read only while waiting (R34). -/
  waitX : RegNum
  /-- The current-opcode latch (R35). -/
  opcode : Word
  /-- The error record: kind (R36). -/
  errKind : ErrKind
  /-- The error record: failing opcode (R36). -/
  errOpcode : Word
  /-- The error record: address (R36). -/
  errAddr : BitVec 17
  /-- The parameter FONT of R8: the 80 bytes every reset installs (R39, R260). It is fixed for a machine: no step changes it (log 2). -/
  font : Font
  /-- The MODEL'S own: how many random bytes have been drawn; `Config.rnd draws` is the next (D17, log 4). -/
  draws : Nat
  /-- The MODEL'S own: events the environment has put before the engine, first one next; when empty, the driving loop's engine step is next (R246, D3, log 5). -/
  inbox : List Event
  deriving DecidableEq, Repr

/-- The ways a step could end in a fault: none. Every error of the spec is a next state, `halted` with its record (R220), so no one raises a constructor of this type and no step ends in a fault (log 6). -/
inductive Fault where
  deriving DecidableEq, Repr

/-- The ways the model can refuse. -/
inductive Refusal where
  /-- Raised by `exec` for an instruction that has no meaning yet; no arm raises it in this model. Safe: the run stops. -/
  | notModelled (mnemonic : String)
  /-- Raised by `State.snapshot` for a memory slice that does not lie inside 0x000 to 0xFFF (R244, U14). Safe: nothing is read and the state is unchanged. No step raises it. -/
  | snapshotSlice (base len : Nat)
  deriving DecidableEq, Repr

/-- The machine right after reset, with the default font: every field of the block at the value of R40 and R260, the model's own fields at 0 and empty (log 4, log 5). -/
def State.reset : State :=
  { v := Vector.replicate 16 0x00#8
    i := 0x0000#16
    pc := 0x200#12
    sp := 0x4E#8
    dt := 0x00#8
    st := 0x00#8
    mem := []
    disp := Framebuffer.blank
    keys := Vector.replicate 16 false
    estate := .ready
    waitX := 0x0#4
    opcode := 0x0000#16
    errKind := .none
    errOpcode := 0x0000#16
    errAddr := 0#17
    font := defaultFont
    draws := 0
    inbox := [] }

end Sys2Proof.Machine
end

