-- ==== Sys2Proof/Machine/Ops.lean ====
section
/-! DEFINITION. The named operations over registers, memory, stack, display, keypad and timers; raising an error, which is this machine's exception entry; and the fetch (10_state.md, 20_memory.md, 60_exceptions.md). -/

namespace Sys2Proof.Machine

/-! ### Registers -/

/-- `V[r]` (R11, R20). -/
def State.getV (s : State) (r : RegNum) : Byte := s.v[r.toNat]

/-- `V[r] <- b` (R11, R20). -/
def State.setV (s : State) (r : RegNum) (b : Byte) : State := { s with v := s.v.set r.toNat b }

/-- `PC <- a`, stored modulo 0x1000: the one place PC is written (R23). -/
def State.setPc (s : State) (a : Nat) : State := { s with pc := BitVec.ofNat 12 a }

/-- `I <- a`, stored modulo 0x10000 (R11, R27). -/
def State.setI (s : State) (a : Nat) : State := { s with i := BitVec.ofNat 16 a }

/-- `SP <- a` (R11, R28). -/
def State.setSp (s : State) (a : Nat) : State := { s with sp := BitVec.ofNat 8 a }

/-- `DT <- b` (R186). -/
def State.setDt (s : State) (b : Byte) : State := { s with dt := b }

/-- `ST <- b` (R187). -/
def State.setSt (s : State) (b : Byte) : State := { s with st := b }

/-- The whole register file written (R206). -/
def State.setRegs (s : State) (v : Vector Byte 16) : State := { s with v := v }

/-- The memory replaced. -/
def State.setMem (s : State) (m : Memory) : State := { s with mem := m }

/-- The framebuffer replaced (R163, R164). -/
def State.setDisp (s : State) (d : Framebuffer) : State := { s with disp := d }

/-- The events that remain (log 5). -/
def State.setInbox (s : State) (es : List Event) : State := { s with inbox := es }

/-- One random byte has been consumed (R123, log 4). -/
def State.countDraw (s : State) : State := { s with draws := s.draws + 1 }

/-- The byte the random source supplies for this execution (R11, R123, D17). -/
def State.rnd (s : State) : Byte := Config.rnd s.draws

/-- The fetch has read word `w` at PC: latch it and advance PC by 2 (R24, R35). -/
def State.latch (s : State) (w : Word) : State := { s with opcode := w, pc := BitVec.ofNat 12 (s.pc.toNat + 2) }

/-- A write to Vx and then to VF, in this order (R111, D9). -/
def State.setVFlag (s : State) (x : RegNum) (result flag : Byte) : State := (s.setV x result).setV 0xF#4 flag

/-- `if c then PC <- PC + 2` (R140). -/
def State.skipIf (s : State) (c : Bool) : State := if c then s.setPc (s.pc.toNat + 2) else s

/-! ### Errors: this machine's exception entry -/

/-- `AddressOutOfRange(a)` (R221, R226). -/
def Err.address (a : Nat) : Err := ⟨.addressOutOfRange, BitVec.ofNat 17 a⟩

/-- `enter_error(E, info)`: Halted, with the record; `op` is the word of the failing instruction, 0x0000 when no fetch succeeded (R220). -/
def State.enterError (s : State) (e : Err) (op : Word) : State :=
  { s with estate := .halted, errKind := e.kind, errOpcode := op, errAddr := e.info }

/-- An error raised by an executing instruction: `s` is the state after its fetch, none of its writes takes place, and the latch holds its word (R220, R229). There is no return from an error but reset and ROM load (R232). -/
def State.raise (s : State) (e : Err) : State := s.enterError e s.opcode

/-- An instruction that may raise: its result, or the error taken in the state after the fetch (R220, R229). -/
def State.finish (s : State) : Except Err State → Host.Outcome State Fault Refusal
  | .ok t => .next t
  | .error e => .next (s.raise e)

/-! ### Memory -/

/-- `MemRead(a, 1)` (R61). -/
def State.readByte (s : State) (a : Nat) : Except Err Byte :=
  if addrMax < a then .error (.address a) else .ok (s.mem.get a)

/-- `MemWrite(a, 1, b)` (R62). -/
def State.writeByte (s : State) (a : Nat) (b : Byte) : Except Err State :=
  if addrMax < a then .error (.address a) else .ok (s.setMem (s.mem.put a b))

/-- `MemRead(a, 2)`: big-endian, both bytes range-checked (R63). -/
def State.readWord (s : State) (a : Nat) : Except Err Word :=
  if addrMax < a then .error (.address a)
  else if addrMax < a + 1 then .error (.address (a + 1))
  else .ok (joinBytes (s.mem.get a) (s.mem.get (a + 1)))

/-- `MemWrite(a, 2, w)`: big-endian, both bytes range-checked before either is written (R64). -/
def State.writeWord (s : State) (a : Nat) (w : Word) : Except Err State :=
  if addrMax < a then .error (.address a)
  else if addrMax < a + 1 then .error (.address (a + 1))
  else .ok (s.setMem ((s.mem.put a (highByte w)).put (a + 1) (lowByte w)))

/-- The lowest of the `n` addresses from `a` that is above 0xFFF (R200, R228). -/
def firstBad (a : Nat) : Nat → Option Nat
  | 0 => none
  | n + 1 => if addrMax < a then some a else firstBad (a + 1) n

/-- Read `n` bytes from `a`, every address checked, the lowest bad one reported (R164, R200, R206). -/
def State.readBytes (s : State) (a n : Nat) : Except Err (List Byte) :=
  match firstBad a n with
  | some bad => .error (.address bad)
  | none => .ok (s.mem.getList a n)

/-- Write bytes from `a` on, every address checked before anything is written (R200, R204, R205). -/
def State.writeBytes (s : State) (a : Nat) (bs : List Byte) : Except Err State :=
  match firstBad a bs.length with
  | some bad => .error (.address bad)
  | none => .ok (s.setMem (s.mem.putList a bs))

/-! ### The call stack -/

/-- `Push(w)` (R29); the test is `>=` in every state (log 29). -/
def State.push (s : State) (w : Word) : Except Err State :=
  if spMax ≤ s.sp.toNat then .error ⟨.stackOverflow, s.sp.setWidth 17⟩
  else
    let t := s.setSp (s.sp.toNat + 2)
    t.writeWord t.sp.toNat w

/-- `Pop()`: the word and the state after it; the slot's bytes stay (R29). -/
def State.pop (s : State) : Except Err (Word × State) :=
  if s.sp.toNat ≤ spEmpty then .error ⟨.stackUnderflow, s.sp.setWidth 17⟩
  else
    match s.readWord s.sp.toNat with
    | .ok w => .ok (w, s.setSp (s.sp.toNat - 2))
    | .error e => .error e

/-! ### The keypad -/

/-- The key a code names: `code & 0xF` (R180). -/
def keyNumber (code : Byte) : Nibble := code.setWidth 4

/-- `set_key(code, down)` (R180). -/
def State.setKey (s : State) (code : Byte) (down : Bool) : State :=
  { s with keys := s.keys.set (keyNumber code).toNat down }

/-- `is_down(code)` (R180). -/
def State.isDown (s : State) (code : Byte) : Bool := s.keys[(keyNumber code).toNat]

/-- `is_up(code)` (R180). -/
def State.isUp (s : State) (code : Byte) : Bool := !s.isDown code

/-- `Ready → WaitingForKey`, the pending register `x` (R184). -/
def State.startWait (s : State) (x : RegNum) : State := { s with waitX := x, estate := .waitingForKey }

/-- The end of a wait: the code into the pending register, back to Ready, PC as it is (R185). -/
def State.endWait (s : State) (code : Byte) : State :=
  { s.setV s.waitX ((keyNumber code).setWidth 8) with estate := .ready }

/-! ### The fetch -/

/-- The fetch in Ready: latch the word at PC and advance, or take the fetch's error, whose record holds opcode 0x0000 and which leaves PC and the latch (R24, R226, R229, R241). -/
def State.fetch (s : State) : State :=
  match s.readWord s.pc.toNat with
  | .ok w => s.latch w
  | .error e => s.enterError e 0x0000#16

/-- The address of the instruction whose fetch has advanced PC: `(PC - 2) mod 0x1000` (R242). -/
def State.instrAddr (s : State) : Addr := s.pc - 2#12

/-- The error of a word that does not decode, with the address it was fetched from (R224, R226). -/
def State.illegal (s : State) : State := s.raise ⟨.unrecognizedOpcode, s.instrAddr.setWidth 17⟩

end Sys2Proof.Machine
end

