-- ==== Sys2Proof/Machine/Flags.lean ====
section
/-! DEFINITION. The 8-bit results and every flag computation: exact on naturals and integers, narrowed once at the end (40_alu.md R110, R118 to R122; 42_display.md R165). -/

namespace Sys2Proof.Machine

/-- A flag as VF holds it: 1 or 0. -/
def flagByte (c : Bool) : Byte := if c then 0x01#8 else 0x00#8

/-- The low 8 bits of the exact sum (R110). -/
def sum8 (a b : Byte) : Byte := BitVec.ofNat 8 (a.toNat + b.toNat)

/-- The low 8 bits of the exact difference: it wraps modulo 256 (R110). -/
def diff8 (a b : Byte) : Byte := BitVec.ofInt 8 ((a.toNat : Int) - (b.toNat : Int))

/-- The carry: the 9-bit sum exceeds 0xFF (R118). -/
def carryFlag (a b : Byte) : Byte := flagByte (decide (0xFF < a.toNat + b.toNat))

/-- The no-borrow flag of `a - b`: `a > b`, strictly, so 0 for equal operands (R119, R121). -/
def noBorrowFlag (a b : Byte) : Byte := flagByte (decide (b.toNat < a.toNat))

/-- `b >> 1` (R120). -/
def half8 (b : Byte) : Byte := BitVec.ofNat 8 (b.toNat / 2)

/-- The bit a right shift moves out: bit 0 (R120). -/
def lowBitFlag (b : Byte) : Byte := flagByte (b.getLsbD 0)

/-- `(b << 1) mod 256` (R122). -/
def double8 (b : Byte) : Byte := BitVec.ofNat 8 (b.toNat * 2)

/-- The bit a left shift moves out: bit 7 (R122). -/
def highBitFlag (b : Byte) : Byte := flagByte (b.getLsbD 7)

/-- The collision flag of a draw: 1 if any row reported a collision (R164, R165). -/
def collisionFlag (hit : Bool) : Byte := flagByte hit

end Sys2Proof.Machine
end

