-- ==== Sys2Proof/Machine/Operands.lean ====
section
/-! DEFINITION. The operand forms: index plus offset, the block of registers V0 to Vx, the decimal digits, the glyph address and the sprite coordinates (40_alu.md to 44_memory_index.md). -/

namespace Sys2Proof.Machine

/-- `I`, from which the bytes `I + k` are reached, computed exactly and never wrapped (R200). -/
def State.index (s : State) : Nat := s.i.toNat

/-- V0 to Vx, inclusive (R205). -/
def State.regsUpTo (s : State) (x : RegNum) : List Byte := s.v.toList.take (x.toNat + 1)

/-- How many bytes the block forms move: `x + 1` (R205, R206). -/
def blockLength (x : RegNum) : Nat := x.toNat + 1

/-- Write bytes to consecutive registers from number `k` on (R206). -/
def fillRegs (v : Vector Byte 16) (k : Nat) : List Byte → Vector Byte 16
  | [] => v
  | b :: bs => fillRegs (v.setIfInBounds k b) (k + 1) bs

/-- The hundreds, tens and units digits of a byte (R204). -/
def bcdDigits (b : Byte) : List Byte :=
  [BitVec.ofNat 8 (b.toNat / 100), BitVec.ofNat 8 (b.toNat / 10 % 10), BitVec.ofNat 8 (b.toNat % 10)]

/-- The address of the glyph of the low nibble of a byte: `(b & 0xF) * 5` (R203, D14). -/
def glyphAddress (b : Byte) : Nat := (b &&& 0x0F#8).toNat * 5

/-- The start column of a sprite, `Vx mod 64` (R164). -/
def spriteColumn (vx : Byte) : Nat := vx.toNat % 64

/-- The start row of a sprite: `Vy`, not reduced (R164, D29). -/
def spriteRow (vy : Byte) : Nat := vy.toNat

/-- The target of BNNN before PC is masked: `nnn + V0` (R144). -/
def jumpOffset (nnn : Addr) (v0 : Byte) : Nat := nnn.toNat + v0.toNat

end Sys2Proof.Machine
end

