-- ==== Sys2Proof/Machine/Alu.lean ====
section
/-! DEFINITION. Register loads and arithmetic: 6XNN, 7XNN, 8XY0 to 8XYE, CXNN (40_alu.md R110 to R123). None changes PC, touches memory or raises an error. -/

namespace Sys2Proof.Machine

/-- 6XNN: `V[x] <- nn` (R112). -/
def execLdImm (x : RegNum) (nn : Byte) (s : State) : Host.Outcome State Fault Refusal :=
  .next (s.setV x nn)

/-- 7XNN: `V[x] <- (V[x] + nn) mod 256`, no flag (R113). -/
def execAddImm (x : RegNum) (nn : Byte) (s : State) : Host.Outcome State Fault Refusal :=
  .next (s.setV x (sum8 (s.getV x) nn))

/-- 8XY0: `V[x] <- V[y]` (R114). -/
def execLdReg (x y : RegNum) (s : State) : Host.Outcome State Fault Refusal :=
  .next (s.setV x (s.getV y))

/-- 8XY1: bitwise or; VF is not reset (R115, D13). -/
def execOrReg (x y : RegNum) (s : State) : Host.Outcome State Fault Refusal :=
  .next (s.setV x (s.getV x ||| s.getV y))

/-- 8XY2: bitwise and; VF is not reset (R116, D13). -/
def execAndReg (x y : RegNum) (s : State) : Host.Outcome State Fault Refusal :=
  .next (s.setV x (s.getV x &&& s.getV y))

/-- 8XY3: bitwise exclusive or; VF is not reset (R117, D13). -/
def execXorReg (x y : RegNum) (s : State) : Host.Outcome State Fault Refusal :=
  .next (s.setV x (s.getV x ^^^ s.getV y))

/-- 8XY4: the sum into Vx, then the carry into VF (R118). -/
def execAddReg (x y : RegNum) (s : State) : Host.Outcome State Fault Refusal :=
  .next (s.setVFlag x (sum8 (s.getV x) (s.getV y)) (carryFlag (s.getV x) (s.getV y)))

/-- 8XY5: `Vx - Vy` into Vx, then `Vx > Vy` into VF (R119). -/
def execSubReg (x y : RegNum) (s : State) : Host.Outcome State Fault Refusal :=
  .next (s.setVFlag x (diff8 (s.getV x) (s.getV y)) (noBorrowFlag (s.getV x) (s.getV y)))

/-- 8XY6: `Vx >> 1` into Vx, then the old bit 0 into VF (R120). -/
def execShr (x : RegNum) (s : State) : Host.Outcome State Fault Refusal :=
  .next (s.setVFlag x (half8 (s.getV x)) (lowBitFlag (s.getV x)))

/-- 8XY7: `Vy - Vx` into Vx, then `Vy > Vx` into VF (R121). -/
def execSubnReg (x y : RegNum) (s : State) : Host.Outcome State Fault Refusal :=
  .next (s.setVFlag x (diff8 (s.getV y) (s.getV x)) (noBorrowFlag (s.getV y) (s.getV x)))

/-- 8XYE: `(Vx << 1) mod 256` into Vx, then the old bit 7 into VF (R122). -/
def execShl (x : RegNum) (s : State) : Host.Outcome State Fault Refusal :=
  .next (s.setVFlag x (double8 (s.getV x)) (highBitFlag (s.getV x)))

/-- CXNN: a random byte masked with nn into Vx; the draw is consumed (R123, D17). -/
def execRnd (x : RegNum) (nn : Byte) (s : State) : Host.Outcome State Fault Refusal :=
  .next (s.countDraw.setV x (s.rnd &&& nn))

end Sys2Proof.Machine
end

