-- ==== Sys2Proof/Machine/Control.lean ====
section
/-! DEFINITION. Control transfer and skips: 00EE, 1NNN, 2NNN, BNNN, 3XNN, 4XNN, 5XY0, 9XY0 (41_control.md R140 to R149). Every meaning starts in the state after the fetch. -/

namespace Sys2Proof.Machine

/-- 00EE: pop the return address into PC (R141). -/
def execRet (s : State) : Host.Outcome State Fault Refusal :=
  s.finish (match s.pop with
    | .ok (w, t) => .ok (t.setPc w.toNat)
    | .error e => .error e)

/-- 1NNN: `PC <- nnn` (R142). -/
def execJp (nnn : Addr) (s : State) : Host.Outcome State Fault Refusal :=
  .next (s.setPc nnn.toNat)

/-- 2NNN: push the advanced PC, then `PC <- nnn` (R143). -/
def execCall (nnn : Addr) (s : State) : Host.Outcome State Fault Refusal :=
  s.finish (match s.push (s.pc.setWidth 16) with
    | .ok t => .ok (t.setPc nnn.toNat)
    | .error e => .error e)

/-- 3XNN: skip if `V[x] = nn` (R145). -/
def execSeImm (x : RegNum) (nn : Byte) (s : State) : Host.Outcome State Fault Refusal :=
  .next (s.skipIf (s.getV x == nn))

/-- 4XNN: skip if `V[x] ≠ nn` (R146). -/
def execSneImm (x : RegNum) (nn : Byte) (s : State) : Host.Outcome State Fault Refusal :=
  .next (s.skipIf (s.getV x != nn))

/-- 5XY0: skip if `V[x] = V[y]` (R147). -/
def execSeReg (x y : RegNum) (s : State) : Host.Outcome State Fault Refusal :=
  .next (s.skipIf (s.getV x == s.getV y))

/-- 9XY0: skip if `V[x] ≠ V[y]` (R148). -/
def execSneReg (x y : RegNum) (s : State) : Host.Outcome State Fault Refusal :=
  .next (s.skipIf (s.getV x != s.getV y))

/-- BNNN: `PC <- (nnn + V0) mod 0x1000` (R144). -/
def execJpV0 (nnn : Addr) (s : State) : Host.Outcome State Fault Refusal :=
  .next (s.setPc (jumpOffset nnn (s.getV 0x0#4)))

end Sys2Proof.Machine
end

