-- ==== Sys2Proof/Machine/Draw.lean ====
section
/-! DEFINITION. Display and sprite drawing: 00E0, DXYN (42_display.md R160 to R166). -/

namespace Sys2Proof.Machine

/-- 00E0: every cell 0; VF is not written (R162, R163). -/
def execCls (s : State) : Host.Outcome State Fault Refusal :=
  .next (s.setDisp Framebuffer.blank)

/-- The effect of DXYN once its `rows` are read: blit them at (Vx mod 64, Vy), VF last (R164). -/
def State.drawAt (s : State) (vx vy : Byte) (rows : List Byte) : State :=
  let drawn := drawRows s.disp (spriteRow vy) (spriteColumn vx) rows
  (s.setDisp drawn.1).setV 0xF#4 (collisionFlag drawn.2)

/-- DXYN: every byte is read and range-checked before any cell or VF is written (R164). -/
def execDrw (x y : RegNum) (n : Nibble) (s : State) : Host.Outcome State Fault Refusal :=
  s.finish (match s.readBytes s.index n.toNat with
    | .ok rows => .ok (s.drawAt (s.getV x) (s.getV y) rows)
    | .error e => .error e)

end Sys2Proof.Machine
end

