-- ==== Sys2Proof/Machine/KeypadTimer.lean ====
section
/-! DEFINITION. Keypad, key-wait and timers: EX9E, EXA1, FX07, FX0A, FX15, FX18, and the two events that act on this state (43_keypad_timers.md R180 to R189). -/

namespace Sys2Proof.Machine

/-- EX9E: skip if key `V[x] & 0xF` is down (R181). -/
def execSkp (x : RegNum) (s : State) : Host.Outcome State Fault Refusal :=
  .next (s.skipIf (s.isDown (s.getV x)))

/-- EXA1: skip if key `V[x] & 0xF` is up (R182). -/
def execSknp (x : RegNum) (s : State) : Host.Outcome State Fault Refusal :=
  .next (s.skipIf (s.isUp (s.getV x)))

/-- FX07: `V[x] <- DT` (R183). -/
def execLdVxDT (x : RegNum) (s : State) : Host.Outcome State Fault Refusal :=
  .next (s.setV x s.dt)

/-- FX0A: wait for a key-down event; PC stays A + 2 and no register is written yet (R184). -/
def execLdVxK (x : RegNum) (s : State) : Host.Outcome State Fault Refusal :=
  .next (s.startWait x)

/-- FX15: `DT <- V[x]` (R186). -/
def execLdDTVx (x : RegNum) (s : State) : Host.Outcome State Fault Refusal :=
  .next (s.setDt (s.getV x))

/-- FX18: `ST <- V[x]` (R187). -/
def execLdSTVx (x : RegNum) (s : State) : Host.Outcome State Fault Refusal :=
  .next (s.setSt (s.getV x))

/-- A countdown timer after one tick: floored at zero (R188). -/
def countDown (b : Byte) : Byte := if 0 < b.toNat then BitVec.ofNat 8 (b.toNat - 1) else b

/-- `Tick()`: nothing in Halted (R188, D32). -/
def State.tick (s : State) : State :=
  if s.estate = .halted then s else (s.setDt (countDown s.dt)).setSt (countDown s.st)

/-- `KeyEvent(code, down)`: the latch, and the end of a wait if it is a key-down event in WaitingForKey (R185, R189, R236). -/
def State.keyEvent (s : State) (code : Byte) (down : Bool) : State :=
  if s.estate = .waitingForKey ∧ down = true then (s.setKey code down).endWait code
  else s.setKey code down

end Sys2Proof.Machine
end

