-- ==== Sys2Proof/Machine/MemoryIndex.lean ====
section
/-! DEFINITION. Index register and memory transfers: ANNN, FX1E, FX29, FX33, FX55, FX65 (44_memory_index.md R200 to R206). -/

namespace Sys2Proof.Machine

/-- ANNN: `I <- nnn` (R201). -/
def execLdI (nnn : Addr) (s : State) : Host.Outcome State Fault Refusal :=
  .next (s.setI nnn.toNat)

/-- FX1E: `I <- (I + V[x]) mod 0x10000`, VF not written (R202, D11). -/
def execAddI (x : RegNum) (s : State) : Host.Outcome State Fault Refusal :=
  .next (s.setI (s.i.toNat + (s.getV x).toNat))

/-- FX29: `I <- (V[x] & 0xF) * 5` (R203). -/
def execLdF (x : RegNum) (s : State) : Host.Outcome State Fault Refusal :=
  .next (s.setI (glyphAddress (s.getV x)))

/-- FX33: the three decimal digits of Vx at I, I+1, I+2 (R204). -/
def execLdB (x : RegNum) (s : State) : Host.Outcome State Fault Refusal :=
  s.finish (s.writeBytes s.index (bcdDigits (s.getV x)))

/-- FX55: V0 to Vx, inclusive, at I; I unchanged (R205, D12). -/
def execStRegs (x : RegNum) (s : State) : Host.Outcome State Fault Refusal :=
  s.finish (s.writeBytes s.index (s.regsUpTo x))

/-- FX65: V0 to Vx, inclusive, from I; I unchanged (R206, D12). -/
def execLdRegs (x : RegNum) (s : State) : Host.Outcome State Fault Refusal :=
  s.finish (match s.readBytes s.index (blockLength x) with
    | .ok bs => .ok (s.setRegs (fillRegs s.v 0 bs))
    | .error e => .error e)

end Sys2Proof.Machine
end

