-- ==== Sys2Proof/Machine/Events.lean ====
section
/-! DEFINITION. The events of the block: single fetch, single execute, the engine step, tick, key event, reset, ROM load, snapshot, and what one of them does (60_exceptions.md R236 to R246; 70_reset_and_hazards.md R260, R264). -/

namespace Sys2Proof.Machine

/-- `Fetch()`: nothing unless Ready (R241). -/
def State.fetchHalf (s : State) : State := if s.estate = .ready then s.fetch else s

/-- `Execute()`: nothing unless Ready; else decode the opcode latch and run its rule, or raise UnrecognizedOpcode (R242). -/
def State.executeHalf (s : State) : Host.Outcome State Fault Refusal :=
  if s.estate = .ready then
    match decode s.opcode with
    | .ok i => exec i s
    | .error _ => .next s.illegal
  else .next s

/-- `Step()`: in Ready, a fetch and, if still Ready, an execute (R243). -/
def State.engineStep (s : State) : Host.Outcome State Fault Refusal :=
  if s.estate = .ready then s.fetchHalf.executeHalf else .next s

/-- The machine with the font `f` right after reset: memory cleared and `f` installed at 0x000 (R8, R39, R260). `State.reset` is this machine with the default font. -/
def State.resetWith (f : Font) : State :=
  { State.reset with mem := Memory.putList [] fontBase f.toList, font := f }

/-- `Reset()`: every element of the block's state at its reset value, the machine's own font installed; the environment's own `draws` and `inbox` go on (R260, log 8). -/
def State.resetBlock (s : State) : State :=
  { State.resetWith s.font with draws := s.draws, inbox := s.inbox }

/-- The copy loop of `LoadRom` from address `a`: a byte that would fall above 0xFFF raises AddressOutOfRange there (R264, D22). -/
def State.loadFrom (s : State) (a : Nat) : List Byte → State
  | [] => s
  | b :: bs =>
    match s.writeByte a b with
    | .ok t => t.loadFrom (a + 1) bs
    | .error e => s.enterError e 0x0000#16

/-- `LoadRom(rom)`: reset, then copy from 0x200 (R264). -/
def State.loadRom (s : State) (rom : List Byte) : State := s.resetBlock.loadFrom progBase rom

/-- What one event does (R246). A snapshot changes no state (R244); what it reads is `State.snapshot`. -/
def applyEvent (e : Event) (s : State) : Host.Outcome State Fault Refusal :=
  match e with
  | .step => s.engineStep
  | .fetch => .next s.fetchHalf
  | .execute => s.executeHalf
  | .tick => .next s.tick
  | .key code down => .next (s.keyEvent code down)
  | .reset => .next s.resetBlock
  | .loadRom rom => .next (s.loadRom rom)
  | .snapshot _ _ => .next s

/-- Events one after the other, each to completion (R246). -/
def applyEvents : List Event → State → Host.Outcome State Fault Refusal
  | [], s => .next s
  | e :: es, s =>
    match applyEvent e s with
    | .next t => applyEvents es t
    | .fault r => .fault r
    | .refused r => .refused r

/-- The next event: the first of the inbox, taken out of it, or, when the inbox is empty, the engine step of the driving loop (R243, R246, log 5). -/
def nextEvent (s : State) : Host.Outcome State Fault Refusal :=
  match s.inbox with
  | [] => s.engineStep
  | e :: es => applyEvent e (s.setInbox es)

end Sys2Proof.Machine
end

