-- ==== Sys2Proof/Machine/Step.lean ====
section
/-! DEFINITION. One step of the machine, and placing an instruction where the next step fetches it. -/

namespace Sys2Proof.Machine

/-- One step: the next event of the inbox, or the engine step R243 when no event is waiting. -/
def step (s : State) : Host.Outcome State Fault Refusal := nextEvent s

/-- `s` with the instruction of `spec/opcode_table.json` bits `w` stored big-endian at PC, the engine Ready and no event before it, so that the next step fetches and runs it (log 7). At PC = 0xFFF no instruction can be fetched (R26), and memory is left as it is. -/
def State.withFetchWord (s : State) (nbits w : Nat) : State :=
  match s.writeWord s.pc.toNat (tableWord nbits w) with
  | .ok t => { t with estate := .ready, inbox := [] }
  | .error _ => { s with estate := .ready, inbox := [] }

end Sys2Proof.Machine
end

