-- ==== Sys2Proof/Machine/Snapshot.lean ====
section
/-! DEFINITION. The snapshot the host reads between events (60_exceptions.md R244). -/

namespace Sys2Proof.Machine

/-- What a snapshot shows (R244, D24). The decoded mnemonic of `opcode` is out of scope (00_scope.md R6). -/
structure Snapshot where
  pc : Addr
  sp : Byte
  i : Word
  dt : Byte
  st : Byte
  v : Vector Byte 16
  /-- The stack window, bytes 0x050 to 0x06D (C1). -/
  stack : List Byte
  opcode : Word
  keys : Vector Bool 16
  /-- The memory slice asked for. -/
  slice : List Byte
  disp : Framebuffer
  estate : EngineState
  waitX : RegNum
  errKind : ErrKind
  errOpcode : Word
  errAddr : BitVec 17
  deriving DecidableEq, Repr

/-- The first byte of the stack window (R244). -/
def stackWindowBase : Nat := 0x050

/-- How many bytes the stack window has: 15 slots of two (R244, R29). -/
def stackWindowLength : Nat := 30

/-- Read a snapshot with the slice of `len` bytes from `base`; a slice outside 0x000 to 0xFFF is refused (R244, U14, log 10). It changes no state. -/
def State.snapshot (s : State) (base len : Nat) : Host.Outcome Snapshot Fault Refusal :=
  if base + len ≤ memSize then
    .next
      { pc := s.pc, sp := s.sp, i := s.i, dt := s.dt, st := s.st, v := s.v
        stack := s.mem.getList stackWindowBase stackWindowLength
        opcode := s.opcode, keys := s.keys
        slice := s.mem.getList base len
        disp := s.disp, estate := s.estate, waitX := s.waitX
        errKind := s.errKind, errOpcode := s.errOpcode, errAddr := s.errAddr }
  else .refused (.snapshotSlice base len)

end Sys2Proof.Machine
end

