-- ==== Sys2Proof/Machine/Ports.lean ====
section
/-! DEFINITION. The ports of a hardware realization: the encodings of the outputs, and the order of the strobes of one clock (60_exceptions.md R225, R246, R247). -/

namespace Sys2Proof.Machine

/-- Port `estate`: 0 Ready, 1 WaitingForKey, 2 Halted (R247). -/
def EngineState.code : EngineState → BitVec 2
  | .ready => 0#2
  | .waitingForKey => 1#2
  | .halted => 2#2

/-- Port `err_kind`: the codes of R225; 5 to 7 are never written. -/
def ErrKind.code : ErrKind → BitVec 3
  | .none => 0#3
  | .addressOutOfRange => 1#3
  | .stackOverflow => 2#3
  | .stackUnderflow => 3#3
  | .unrecognizedOpcode => 4#3

/-- Port `fb`: bit `64*r + c` is `Disp[r][c]` (R247). -/
def State.portFb (s : State) (bit : Nat) : Bool := s.disp.cell (bit / dispW) (bit % dispW)

/-- Port `keys`: bit `k` is `KeyDown(k)` (R247). -/
def State.portKeys (s : State) (k : Nibble) : Bool := s.keys[k.toNat]

/-- Port `sound`: equal to `st` (R247). -/
def State.portSound (s : State) : Byte := s.st

/-- Port `mem_rdata` for `mem_raddr` (R247). -/
def State.portMem (s : State) (a : Addr) : Byte := s.mem.get a.toNat

/-- The engine's strobe of one clock: `step`, `dbg_fetch` or `dbg_exec` (R246, R247). -/
inductive EngineStrobe where
  | step
  | fetch
  | execute
  deriving DecidableEq, Repr

/-- The event of an engine strobe. -/
def EngineStrobe.event : EngineStrobe → Event
  | .step => .step
  | .fetch => .fetch
  | .execute => .execute

/-- The strobes that are high on one clock edge (R247); the engine has at most one of its three (log 25). -/
structure Strobes where
  rst : Bool
  load : Option (List Byte)
  key : Option (Nibble × Bool)
  engine : Option EngineStrobe
  tick : Bool
  /-- A snapshot read, base and length of its slice. -/
  snapshot : Option (Nat × Nat)
  deriving DecidableEq, Repr

/-- Several strobes in one clock: reset, ROM load, key event, engine, tick, and the snapshot after all of them (R246, D2). -/
def Strobes.events (p : Strobes) : List Event :=
  (if p.rst then [.reset] else [])
    ++ (p.load.toList.map fun rom => .loadRom rom)
    ++ (p.key.toList.map fun k => .key (k.1.setWidth 8) k.2)
    ++ (p.engine.toList.map fun g => g.event)
    ++ (if p.tick then [.tick] else [])
    ++ (p.snapshot.toList.map fun r => .snapshot r.1 r.2)

/-- One clock edge of a hardware realization: the strobes' events one after the other (R246, R247). -/
def State.clock (s : State) (p : Strobes) : Host.Outcome State Fault Refusal := applyEvents p.events s

/-- The snapshot read in one clock, if one is asked for: it is taken in the state after all the other strobes (R246, D2). -/
def State.clockSnapshot (s : State) (p : Strobes) : Host.Outcome (Option Snapshot) Fault Refusal :=
  match s.clock p, p.snapshot with
  | .next _, none => .next none
  | .next t, some r =>
    match t.snapshot r.1 r.2 with
    | .next n => .next (some n)
    | .fault e => .fault e
    | .refused e => .refused e
  | .fault e, _ => .fault e
  | .refused e, _ => .refused e

end Sys2Proof.Machine
end

