-- ==== Sys2Proof/Safety.lean ====
section
/-! DEFINITION. What counts as a safe run, the invariant of the machine, and what a claim compares of two states (60_exceptions.md R226, R229, R254; 10_state.md R28). -/

namespace Sys2Proof.Machine

/-! ### The end of a run (R254) -/

/-- A run faults when it reaches Halted (R254). -/
abbrev State.Faulted (s : State) : Prop := s.estate = .halted

/-- A run is waiting in WaitingForKey (R254). -/
abbrev State.Waiting (s : State) : Prop := s.estate = .waitingForKey

/-- A run is parked when Ready at a self-jump: the word at PC is `0x1PPP` with `PPP = PC` (R254). -/
abbrev State.Parked (s : State) : Prop :=
  s.estate = .ready ∧ s.readWord s.pc.toNat = .ok (encode (.jp s.pc))

/-- A safe state: no error has been taken. -/
abbrev State.Safe (s : State) : Prop := s.estate ≠ .halted

/-! ### The invariant -/

/-- SP holds one of the 16 values 0x4E, 0x50, ..., 0x6C (R28). -/
abbrev State.StackOk (s : State) : Prop :=
  0x4E ≤ s.sp.toNat ∧ s.sp.toNat ≤ 0x6C ∧ s.sp.toNat % 2 = 0

/-- The rows whose instructions reach memory through I (R221). -/
def indexedRows : List Row :=
  [Instr.row (.drw 0 0 0), Instr.row (.ldB 0), Instr.row (.stRegs 0), Instr.row (.ldRegs 0)]

/-- What a record of each kind holds (R226), `op` and `a` being `err_opcode` and `err_addr`. -/
def recordHolds (kind : ErrKind) (op : Word) (a : Nat) : Bool :=
  match kind with
  | .none => op == 0x0000#16 && a == 0
  | .addressOutOfRange =>
    (op == 0x0000#16 && a == 0x1000)
      || (indexedRows.any (fun r => r.accepts op) && decide (0x1000 ≤ a) && decide (a ≤ 0xFFFF + 15))
  | .stackOverflow => (Instr.row (.call 0)).accepts op && a == 0x6C
  | .stackUnderflow => op == 0x00EE#16 && a == 0x4E
  | .unrecognizedOpcode => !legalWord op && decide (a ≤ 0xFFF)

/-- There is an error record exactly in Halted (R33, R36), and it holds what R226 says. -/
abbrev State.RecordOk (s : State) : Prop :=
  (s.errKind = .none ↔ s.estate ≠ .halted) ∧ recordHolds s.errKind s.errOpcode s.errAddr.toNat = true

/-- The invariant: memory in its canonical form, SP legal, the error record as R226 says. -/
abbrev State.Inv (s : State) : Prop := s.mem.wf = true ∧ s.StackOk ∧ s.RecordOk

/-! ### What two states have in common, for frames -/

/-- Every register but those in `rs` reads the same. -/
abbrev SameRegsBut (rs : List RegNum) (s t : State) : Prop := ∀ r, r ∉ rs → t.getV r = s.getV r

/-- Every byte of memory reads the same. -/
abbrev SameMemory (s t : State) : Prop := ∀ a, t.mem.get a = s.mem.get a

/-- I and SP are the same. -/
abbrev SamePointers (s t : State) : Prop := t.i = s.i ∧ t.sp = s.sp

/-- The two timers are the same. -/
abbrev SameTimers (s t : State) : Prop := t.dt = s.dt ∧ t.st = s.st

/-- Framebuffer, keypad latch and timers are the same. -/
abbrev SameDevices (s t : State) : Prop := t.disp = s.disp ∧ t.keys = s.keys ∧ SameTimers s t

/-- Engine state, pending register, opcode latch and error record are the same. -/
abbrev SameControl (s t : State) : Prop :=
  t.estate = s.estate ∧ t.waitX = s.waitX ∧ t.opcode = s.opcode ∧
    t.errKind = s.errKind ∧ t.errOpcode = s.errOpcode ∧ t.errAddr = s.errAddr

/-- The model's own fields and the parameter FONT are the same: nothing was drawn, no event was taken. -/
abbrev SameEnv (s t : State) : Prop := t.draws = s.draws ∧ t.inbox = s.inbox ∧ t.font = s.font

/-- Only the registers in `rs` may differ. -/
abbrev OnlyRegs (rs : List RegNum) (s t : State) : Prop :=
  SameRegsBut rs s t ∧ t.pc = s.pc ∧ SamePointers s t ∧ SameMemory s t ∧ SameDevices s t ∧ SameControl s t ∧ SameEnv s t

/-- Only PC may differ. -/
abbrev OnlyPc (s t : State) : Prop :=
  SameRegsBut [] s t ∧ SamePointers s t ∧ SameMemory s t ∧ SameDevices s t ∧ SameControl s t ∧ SameEnv s t

/-- Only I may differ. -/
abbrev OnlyI (s t : State) : Prop :=
  SameRegsBut [] s t ∧ t.pc = s.pc ∧ t.sp = s.sp ∧ SameMemory s t ∧ SameDevices s t ∧ SameControl s t ∧ SameEnv s t

/-- Nothing but memory, SP and PC may differ. -/
abbrev OnlyMemorySpPc (s t : State) : Prop :=
  SameRegsBut [] s t ∧ t.i = s.i ∧ SameDevices s t ∧ SameControl s t ∧ SameEnv s t

/-- Cell (p, q) of the display lies under a set bit of the `n`-row sprite that starts at memory address `i`, drawn at column `vx mod 64` and row `vy`: row `k` of the sprite is the byte at `i + k`, its bit 7 the leftmost cell (R160, R164). -/
abbrev SpriteCovers (m : Memory) (i : Nat) (vx vy : Byte) (n : Nat) (p q : Nat) : Prop :=
  p < 32 ∧ q < 64 ∧ vy.toNat ≤ p ∧ p < vy.toNat + n ∧ vx.toNat % 64 ≤ q ∧ q < vx.toNat % 64 + 8 ∧
    (m.get (i + (p - vy.toNat))).getLsbD (7 - (q - vx.toNat % 64)) = true

/-- The register column "writes" of R22: which general registers an instruction may write before it completes. FX0A writes Vx only when its wait ends (R185). -/
def writesReg (i : Instr) (r : RegNum) : Prop :=
  match i with
  | .ldImm x _ | .addImm x _ | .ldReg x _ | .orReg x _ | .andReg x _ | .xorReg x _ | .rnd x _ | .ldVxDT x => r = x
  | .addReg x _ | .subReg x _ | .shr x | .subnReg x _ | .shl x => r = x ∨ r = 0xF#4
  | .drw _ _ _ => r = 0xF#4
  | .ldRegs x => r.toNat ≤ x.toNat
  | .cls | .ret | .jp _ | .call _ | .seImm _ _ | .sneImm _ _ | .seReg _ _ | .sneReg _ _ | .ldI _ | .jpV0 _ => False
  | .skp _ | .sknp _ | .ldVxK _ | .ldDTVx _ | .ldSTVx _ | .addI _ | .ldF _ | .ldB _ | .stRegs _ => False

/-- The instructions that may write PC: jumps, call, return and skips (R25). -/
def writesPc (i : Instr) : Prop :=
  match i with
  | .ret | .jp _ | .call _ | .jpV0 _ | .seImm _ _ | .sneImm _ _ | .seReg _ _ | .sneReg _ _ | .skp _ | .sknp _ => True
  | .cls | .ldImm _ _ | .addImm _ _ | .ldReg _ _ | .orReg _ _ | .andReg _ _ | .xorReg _ _ | .addReg _ _ => False
  | .subReg _ _ | .shr _ | .subnReg _ _ | .shl _ | .ldI _ | .rnd _ _ | .drw _ _ _ | .ldVxDT _ | .ldVxK _ => False
  | .ldDTVx _ | .ldSTVx _ | .addI _ | .ldF _ | .ldB _ | .stRegs _ | .ldRegs _ => False

/-- The error an instruction can raise once decoded, `none` for those that raise nothing (R227). -/
def raises (i : Instr) : ErrKind :=
  match i with
  | .call _ => .stackOverflow
  | .ret => .stackUnderflow
  | .drw _ _ _ | .ldB _ | .stRegs _ | .ldRegs _ => .addressOutOfRange
  | .cls | .jp _ | .seImm _ _ | .sneImm _ _ | .seReg _ _ | .sneReg _ _ | .ldImm _ _ | .addImm _ _ => .none
  | .ldReg _ _ | .orReg _ _ | .andReg _ _ | .xorReg _ _ | .addReg _ _ | .subReg _ _ | .shr _ | .subnReg _ _ | .shl _ => .none
  | .ldI _ | .jpV0 _ | .rnd _ _ | .skp _ | .sknp _ | .ldVxDT _ | .ldVxK _ | .ldDTVx _ | .ldSTVx _ | .addI _ | .ldF _ => .none

/-- The error `kind` with address `a` is taken in state `s`, nothing else changes, and `op` is the recorded word (R220, R229). -/
abbrev TakesError (kind : ErrKind) (op : Word) (a : Nat) (s t : State) : Prop :=
  t.estate = .halted ∧ t.errKind = kind ∧ t.errOpcode = op ∧ t.errAddr.toNat = a ∧
    SameRegsBut [] s t ∧ t.pc = s.pc ∧ SamePointers s t ∧ SameMemory s t ∧ SameDevices s t ∧
    t.waitX = s.waitX ∧ t.opcode = s.opcode ∧ SameEnv s t

end Sys2Proof.Machine
end

