-- ==== Sys2Proof/Certificates/Slice0/Obligations.lean ====
section
/-! DEFINITION. The statements for the provers, one `def Obligations.<Name> : Prop` each; OBLIGATIONS.json lists them. -/

open Sys2Proof Sys2Proof.Machine

/-! ### Encoding (30_encoding.md) -/

/-- Decoding an encoded instruction gives it back, for every instruction and every operand value, as a word and at the front of any bytes (30_encoding.md section 2; R102 is the spec's derivation). -/
def Obligations.DecodeOfEncodeIsTheInstruction : Prop :=
  ∀ (i : Instr) (rest : List Byte),
    decode (encode i) = .ok i ∧ decodeBytes (encodeBytes i ++ rest) = .ok (i, rest)

/-- Encoding what a word decodes to rebuilds the word, but for the `y` field of SHR and SHL, which the spec says is ignored (R96, decision D31). That the encoder puts y = 0 there, so that the field comes back as 0, is the model's own choice (DESIGN CHOICE, log 30). -/
def Obligations.EncodeOfDecodeRebuildsTheWord : Prop :=
  ∀ (w : Word) (i : Instr), decode w = .ok i →
    ((∀ x, i ≠ .shr x ∧ i ≠ .shl x) → encode i = w) ∧
    ((∃ x, i = .shr x ∨ i = .shl x) → encode i = w &&& 0xFF0F#16)

/-- The decoder and the opcode table agree: a word decodes exactly when it matches a row of R99, the instruction is one of the row it matches, and every other word is refused with the word (R100, R102). -/
def Obligations.DecoderFollowsTheOpcodeTable : Prop :=
  ∀ (w : Word),
    (∀ i, decode w = .ok i → i.row ∈ opcodeTable ∧ i.row.accepts w = true) ∧
    ((∃ i, decode w = .ok i) ↔ legalWord w = true) ∧
    (legalWord w = false → decode w = .error (.unrecognizedOpcode w))

/-- The words that do not decode are exactly those of the six rows of R100's table of illegal words. -/
def Obligations.IllegalWordsAreTheListedOnes : Prop :=
  ∀ (w : Word), decode w = .error (.unrecognizedOpcode w) ↔
    (w.toNat / 0x1000 = 0x0 ∧ w.toNat ≠ 0x00E0 ∧ w.toNat ≠ 0x00EE) ∨
    (w.toNat / 0x1000 = 0x5 ∧ w.toNat % 16 ≠ 0) ∨
    (w.toNat / 0x1000 = 0x8 ∧ w.toNat % 16 ∈ [0x8, 0x9, 0xA, 0xB, 0xC, 0xD, 0xF]) ∨
    (w.toNat / 0x1000 = 0x9 ∧ w.toNat % 16 ≠ 0) ∨
    (w.toNat / 0x1000 = 0xE ∧ w.toNat % 256 ∉ [0x9E, 0xA1]) ∨
    (w.toNat / 0x1000 = 0xF ∧ w.toNat % 256 ∉ [0x07, 0x0A, 0x15, 0x18, 0x1E, 0x29, 0x33, 0x55, 0x65])

/-- No word matches two rows of the opcode table (the last paragraph of R99, the spec's derivation). -/
def Obligations.NoWordMatchesTwoRows : Prop :=
  ∀ (w : Word) (r q : Row), r ∈ opcodeTable → q ∈ opcodeTable →
    r.accepts w = true → q.accepts w = true → r = q

/-- Words written out in the spec's vectors decode as its table says: one or more of every family, and illegal ones (95_test_vectors.md part 2). -/
def Obligations.WordsOfTheSpecDecodeAsWritten : Prop :=
  decode 0x00E0#16 = .ok .cls ∧ decode 0x00EE#16 = .ok .ret ∧ decode 0x1234#16 = .ok (.jp 0x234#12) ∧
  decode 0xB123#16 = .ok (.jpV0 0x123#12) ∧ decode 0x3507#16 = .ok (.seImm 5#4 0x07#8) ∧
  decode 0x5120#16 = .ok (.seReg 1#4 2#4) ∧ decode 0x6642#16 = .ok (.ldImm 6#4 0x42#8) ∧
  decode 0x8F15#16 = .ok (.subReg 0xF#4 1#4) ∧ decode 0x8126#16 = .ok (.shr 1#4) ∧
  decode 0xC30F#16 = .ok (.rnd 3#4 0x0F#8) ∧ decode 0xD015#16 = .ok (.drw 0#4 1#4 5#4) ∧
  decode 0xE09E#16 = .ok (.skp 0#4) ∧ decode 0xF30A#16 = .ok (.ldVxK 3#4) ∧
  decode 0xF255#16 = .ok (.stRegs 2#4) ∧ decode 0xF265#16 = .ok (.ldRegs 2#4) ∧
  decode 0x0123#16 = .error (.unrecognizedOpcode 0x0123#16) ∧
  decode 0x5121#16 = .error (.unrecognizedOpcode 0x5121#16) ∧
  decode 0xF0FF#16 = .error (.unrecognizedOpcode 0xF0FF#16)

/-! ### The step (10_state.md R24, 60_exceptions.md R241 to R243) -/

/-- When no event is waiting and the engine is Ready at an address whose two bytes decode, a step is `exec` of that instruction in the state `f` after the fetch: the word is latched, PC has advanced by 2 modulo 0x1000 before the handler runs, and nothing else has changed (R24). -/
def Obligations.StepRunsTheDecodedInstruction : Prop :=
  ∀ (s : State) (i : Instr), s.inbox = [] → s.estate = .ready → s.pc.toNat ≤ 0xFFE →
    decodeBytes [s.mem.get s.pc.toNat, s.mem.get (s.pc.toNat + 1)] = .ok (i, []) →
    ∃ f : State, step s = exec i f ∧
      f.pc.toNat = (s.pc.toNat + 2) % 0x1000 ∧
      f.opcode.toNat = (s.mem.get s.pc.toNat).toNat * 256 + (s.mem.get (s.pc.toNat + 1)).toNat ∧
      f = { s with pc := f.pc, opcode := f.opcode }

/-- A full step is a fetch and, if the engine is still Ready, an execute; in WaitingForKey and in Halted it does nothing, in particular it does not advance PC; the step event and the driving loop's cycle are the same (R243). -/
def Obligations.FullStepIsFetchThenExecute : Prop :=
  ∀ (s : State), s.inbox = [] →
    (s.estate ≠ .ready → step s = .next s) ∧
    (s.estate = .ready → ∃ f : State, step { s with inbox := [.fetch] } = .next f ∧ f.inbox = [] ∧
      step s = if f.estate = .ready then step { f with inbox := [.execute] } else .next f) ∧
    step { s with inbox := [.step] } = step s

/-- The half-steps (R241, R242; decision D23). A single fetch latches the word and advances PC; a single execute runs the latched word, whatever is in memory, or raises UnrecognizedOpcode with the address `(PC - 2) mod 0x1000`; outside Ready both do nothing. -/
def Obligations.HalfStepsFetchAndExecuteTheLatch : Prop :=
  ∀ (s : State) (es : List Event),
    (s.inbox = .fetch :: es → s.estate = .ready → s.pc.toNat ≤ 0xFFE →
      ∃ t : State, step s = .next t ∧
        t.opcode.toNat = (s.mem.get s.pc.toNat).toNat * 256 + (s.mem.get (s.pc.toNat + 1)).toNat ∧
        t.pc.toNat = (s.pc.toNat + 2) % 0x1000 ∧
        t = { s with pc := t.pc, opcode := t.opcode, inbox := es }) ∧
    (∀ i, s.inbox = .execute :: es → s.estate = .ready → decode s.opcode = .ok i →
      step s = exec i { s with inbox := es }) ∧
    (s.inbox = .execute :: es → s.estate = .ready → legalWord s.opcode = false →
      ∃ t : State, step s = .next t ∧
        TakesError .unrecognizedOpcode s.opcode ((s.pc.toNat + 0xFFE) % 0x1000) { s with inbox := es } t) ∧
    (s.inbox = .fetch :: es ∨ s.inbox = .execute :: es → s.estate ≠ .ready →
      step s = .next { s with inbox := es })

/-- A fetch at PC = 0xFFF raises AddressOutOfRange with address 0x1000 and opcode 0x0000; PC, the opcode latch and everything else stay (R226, R229; decision D19). -/
def Obligations.FetchAtTopOfMemoryHalts : Prop :=
  ∀ (s : State), s.inbox = [] → s.estate = .ready → s.pc.toNat = 0xFFF →
    ∃ t : State, step s = .next t ∧ TakesError .addressOutOfRange 0x0000#16 0x1000 s t

/-- A word that matches no row of the table raises UnrecognizedOpcode after its fetch, and the record holds the word and the address it was fetched from (R224). -/
def Obligations.IllegalWordHaltsAfterItsFetch : Prop :=
  ∀ (s : State), s.inbox = [] → s.estate = .ready → s.pc.toNat ≤ 0xFFE →
    legalWord (joinBytes (s.mem.get s.pc.toNat) (s.mem.get (s.pc.toNat + 1))) = false →
    ∃ t : State, step s = .next t ∧
      TakesError .unrecognizedOpcode (joinBytes (s.mem.get s.pc.toNat) (s.mem.get (s.pc.toNat + 1))) s.pc.toNat
        { s with pc := BitVec.ofNat 12 (s.pc.toNat + 2), opcode := joinBytes (s.mem.get s.pc.toNat) (s.mem.get (s.pc.toNat + 1)) } t

/-- Every step of every state answers a next state: no step ends in a fault of the model or a refusal, since every error of the spec is itself a state (60_exceptions.md section 1; log 6). -/
def Obligations.EveryStepAnswersANextState : Prop :=
  ∀ (s : State), ∃ t : State, step s = .next t

/-! ### Memory and the stack (20_memory.md R61 to R64, 10_state.md R29) -/

/-- Byte accesses: inside 0x000 to 0xFFF a read answers the byte, and a write is read back and changes no other byte and nothing else; above, both raise AddressOutOfRange with the address (R61, R62). -/
def Obligations.ByteAccessesReadAndWriteOneByte : Prop :=
  ∀ (s : State) (a : Nat) (b : Byte),
    (a ≤ 0xFFF → s.readByte a = .ok (s.mem.get a) ∧
      ∃ t : State, s.writeByte a b = .ok t ∧ t.readByte a = .ok b ∧
        (∀ c, c ≠ a → t.mem.get c = s.mem.get c) ∧ t = { s with mem := t.mem }) ∧
    (0xFFF < a → ∃ e : Err, s.readByte a = .error e ∧ s.writeByte a b = .error e ∧
      e.kind = .addressOutOfRange ∧ (a < 0x20000 → e.info.toNat = a))

/-- Word accesses are big-endian and need no alignment; a word is read back as written; when either byte is above 0xFFF the lower offending address is raised and neither byte is written (R63; the write is R64, its check of both bytes first decision D19, log 20). -/
def Obligations.WordAccessesAreBigEndian : Prop :=
  ∀ (s : State) (a : Nat) (w : Word),
    (a ≤ 0xFFE →
      (∃ r : Word, s.readWord a = .ok r ∧ r.toNat = (s.mem.get a).toNat * 256 + (s.mem.get (a + 1)).toNat) ∧
      ∃ t : State, s.writeWord a w = .ok t ∧ t.readWord a = .ok w ∧
        (t.mem.get a).toNat = w.toNat / 256 ∧ (t.mem.get (a + 1)).toNat = w.toNat % 256 ∧
        (∀ c, c ≠ a → c ≠ a + 1 → t.mem.get c = s.mem.get c) ∧ t = { s with mem := t.mem }) ∧
    (0xFFE < a → ∃ e : Err, s.readWord a = .error e ∧ s.writeWord a w = .error e ∧
      e.kind = .addressOutOfRange ∧ (a = 0xFFF → e.info.toNat = 0x1000) ∧
      (0xFFF < a → a < 0x20000 → e.info.toNat = a))

/-- Push advances SP by 2 and writes the word at the new SP, high byte first; pop reads the word at SP and retreats SP by 2, the slot keeping its bytes; a push with SP at 0x6C or above overflows and a pop with SP at 0x4E or below underflows; from a legal SP every slot written is one of 0x050 to 0x06C (R29). -/
def Obligations.PushAndPopUseTheMemoryStack : Prop :=
  ∀ (s : State) (w : Word),
    (s.sp.toNat < 0x6C → ∃ t : State, s.push w = .ok t ∧ t.sp.toNat = s.sp.toNat + 2 ∧
      (t.mem.get (s.sp.toNat + 2)).toNat = w.toNat / 256 ∧ (t.mem.get (s.sp.toNat + 3)).toNat = w.toNat % 256 ∧
      (∀ a, a ≠ s.sp.toNat + 2 → a ≠ s.sp.toNat + 3 → t.mem.get a = s.mem.get a) ∧
      t = { s with sp := t.sp, mem := t.mem } ∧
      (s.StackOk → 0x50 ≤ t.sp.toNat ∧ t.sp.toNat ≤ 0x6C ∧ t.sp.toNat % 2 = 0) ∧
      (0x4E ≤ s.sp.toNat → ∃ u : State, t.pop = .ok (w, u) ∧ u = { s with mem := t.mem })) ∧
    (0x6C ≤ s.sp.toNat → ∃ e : Err, s.push w = .error e ∧ e.kind = .stackOverflow ∧ e.info.toNat = s.sp.toNat) ∧
    (0x4E < s.sp.toNat → ∃ (r : Word) (u : State), s.pop = .ok (r, u) ∧
      r.toNat = (s.mem.get s.sp.toNat).toNat * 256 + (s.mem.get (s.sp.toNat + 1)).toNat ∧
      u.sp.toNat = s.sp.toNat - 2 ∧ u = { s with sp := u.sp }) ∧
    (s.sp.toNat ≤ 0x4E → ∃ e : Err, s.pop = .error e ∧ e.kind = .stackUnderflow ∧ e.info.toNat = s.sp.toNat)

/-! ### Register loads and arithmetic (40_alu.md). Each statement about an instruction also names its row of the opcode table, match and mask (R99) -/

/-- 6XNN loads the immediate and 8XY0 copies Vy, into Vx and nothing else (R112, R114). -/
def Obligations.LoadsAndCopiesWriteOnlyVx : Prop :=
  ∀ (x y : RegNum) (nn : Byte) (s : State),
    (∃ t : State, exec (.ldImm x nn) s = .next t ∧ (Instr.ldImm x nn).row = ⟨0x6000#16, 0xF000#16⟩ ∧ t.getV x = nn ∧ OnlyRegs [x] s t) ∧
    (∃ t : State, exec (.ldReg x y) s = .next t ∧ (Instr.ldReg x y).row = ⟨0x8000#16, 0xF00F#16⟩ ∧ t.getV x = s.getV y ∧ OnlyRegs [x] s t)

/-- 7XNN adds the immediate modulo 256 and writes no flag: VF changes only as Vx when x = 15 (R113). -/
def Obligations.AddImmediateWrapsWithoutFlag : Prop :=
  ∀ (x : RegNum) (nn : Byte) (s : State),
    ∃ t : State, exec (.addImm x nn) s = .next t ∧ (Instr.addImm x nn).row = ⟨0x7000#16, 0xF000#16⟩ ∧
      (t.getV x).toNat = ((s.getV x).toNat + nn.toNat) % 256 ∧ OnlyRegs [x] s t

/-- 8XY1, 8XY2, 8XY3 are or, and, exclusive or, bit by bit, into Vx; VF is left alone unless it is Vx. That VF is not reset is decision D13 of the spec (log 12). -/
def Obligations.LogicOperationsWorkBitByBit : Prop :=
  ∀ (x y : RegNum) (s : State),
    (∃ t : State, exec (.orReg x y) s = .next t ∧ (Instr.orReg x y).row = ⟨0x8001#16, 0xF00F#16⟩ ∧ OnlyRegs [x] s t ∧
      ∀ k, (t.getV x).getLsbD k = ((s.getV x).getLsbD k || (s.getV y).getLsbD k)) ∧
    (∃ t : State, exec (.andReg x y) s = .next t ∧ (Instr.andReg x y).row = ⟨0x8002#16, 0xF00F#16⟩ ∧ OnlyRegs [x] s t ∧
      ∀ k, (t.getV x).getLsbD k = ((s.getV x).getLsbD k && (s.getV y).getLsbD k)) ∧
    (∃ t : State, exec (.xorReg x y) s = .next t ∧ (Instr.xorReg x y).row = ⟨0x8003#16, 0xF00F#16⟩ ∧ OnlyRegs [x] s t ∧
      ∀ k, (t.getV x).getLsbD k = ((s.getV x).getLsbD k ^^ (s.getV y).getLsbD k))

/-- 8XY4: Vx is the sum modulo 256 and VF is 1 exactly when the 9-bit sum exceeds 0xFF; both operands are read first, and with x = 15 the flag stays and the sum is lost (R118; the order is decision D9, log 11). -/
def Obligations.AddWritesSumThenCarry : Prop :=
  ∀ (x y : RegNum) (s : State),
    ∃ t : State, exec (.addReg x y) s = .next t ∧ (Instr.addReg x y).row = ⟨0x8004#16, 0xF00F#16⟩ ∧
      (x ≠ 0xF#4 → (t.getV x).toNat = ((s.getV x).toNat + (s.getV y).toNat) % 256) ∧
      (t.getV 0xF#4).toNat = (if 0xFF < (s.getV x).toNat + (s.getV y).toNat then 1 else 0) ∧
      OnlyRegs [x, 0xF#4] s t

/-- 8XY5 and 8XY7: Vx is Vx - Vy, or Vy - Vx, modulo 256, and VF is 1 exactly when the minuend is strictly greater, so 0 for equal operands; with x = 15 the flag stays (R119; 8XY7 is R121, whose wrap modulo 256 the spec derives; the order is decision D9, log 11). -/
def Obligations.SubtractionsWriteDifferenceThenStrictFlag : Prop :=
  ∀ (x y : RegNum) (s : State),
    (∃ t : State, exec (.subReg x y) s = .next t ∧ (Instr.subReg x y).row = ⟨0x8005#16, 0xF00F#16⟩ ∧
      (x ≠ 0xF#4 → (t.getV x).toNat = (256 + (s.getV x).toNat - (s.getV y).toNat) % 256) ∧
      (t.getV 0xF#4).toNat = (if (s.getV y).toNat < (s.getV x).toNat then 1 else 0) ∧
      OnlyRegs [x, 0xF#4] s t) ∧
    (∃ t : State, exec (.subnReg x y) s = .next t ∧ (Instr.subnReg x y).row = ⟨0x8007#16, 0xF00F#16⟩ ∧
      (x ≠ 0xF#4 → (t.getV x).toNat = (256 + (s.getV y).toNat - (s.getV x).toNat) % 256) ∧
      (t.getV 0xF#4).toNat = (if (s.getV x).toNat < (s.getV y).toNat then 1 else 0) ∧
      OnlyRegs [x, 0xF#4] s t)

/-- 8XY6 and 8XYE shift Vx by one bit, logically, and VF gets the bit shifted out: the old bit 0, the old bit 7; with x = 15 the flag stays (R120, R122; the order is decision D9, log 11). -/
def Obligations.ShiftsMoveOneBitIntoTheFlag : Prop :=
  ∀ (x : RegNum) (s : State),
    (∃ t : State, exec (.shr x) s = .next t ∧ (Instr.shr x).row = ⟨0x8006#16, 0xF00F#16⟩ ∧
      (x ≠ 0xF#4 → (t.getV x).toNat = (s.getV x).toNat / 2) ∧
      (t.getV 0xF#4).toNat = (s.getV x).toNat % 2 ∧ OnlyRegs [x, 0xF#4] s t) ∧
    (∃ t : State, exec (.shl x) s = .next t ∧ (Instr.shl x).row = ⟨0x800E#16, 0xF00F#16⟩ ∧
      (x ≠ 0xF#4 → (t.getV x).toNat = (s.getV x).toNat * 2 % 256) ∧
      (t.getV 0xF#4).toNat = (s.getV x).toNat / 128 ∧ OnlyRegs [x, 0xF#4] s t)

/-- CXNN: Vx gets the drawn byte masked with nn, whatever byte is drawn, so no bit outside nn, and 0 for nn = 0; one byte is drawn and nothing else changes (R123). -/
def Obligations.RandomByteIsMasked : Prop :=
  ∀ (x : RegNum) (nn : Byte) (s : State),
    ∃ t : State, exec (.rnd x nn) s = .next t ∧ (Instr.rnd x nn).row = ⟨0xC000#16, 0xF000#16⟩ ∧
      (∀ k, (t.getV x).getLsbD k = ((Config.rnd s.draws).getLsbD k && nn.getLsbD k)) ∧
      (nn = 0x00#8 → t.getV x = 0x00#8) ∧
      t.draws = s.draws + 1 ∧ OnlyRegs [x] { s with draws := s.draws + 1 } t

/-! ### Control transfer (41_control.md); `s` is the state after the fetch, its PC already A + 2 -/

/-- 1NNN sets PC to nnn; BNNN to nnn + V0 modulo 0x1000; nothing else changes (R142, R144). -/
def Obligations.JumpsWriteOnlyPc : Prop :=
  ∀ (nnn : Addr) (s : State),
    (∃ t : State, exec (.jp nnn) s = .next t ∧ (Instr.jp nnn).row = ⟨0x1000#16, 0xF000#16⟩ ∧ t.pc = nnn ∧ OnlyPc s t) ∧
    (∃ t : State, exec (.jpV0 nnn) s = .next t ∧ (Instr.jpV0 nnn).row = ⟨0xB000#16, 0xF000#16⟩ ∧
      t.pc.toNat = (nnn.toNat + (s.getV 0x0#4).toNat) % 0x1000 ∧ OnlyPc s t)

/-- 2NNN: with SP below its last slot, the advanced PC is stored at SP + 2, high byte first, SP advances by 2 and PC is nnn; with SP at the last slot StackOverflow is raised with SP and nothing is written (R143). -/
def Obligations.CallPushesTheReturnAddress : Prop :=
  ∀ (nnn : Addr) (s : State), ∃ t : State, exec (.call nnn) s = .next t ∧ (Instr.call nnn).row = ⟨0x2000#16, 0xF000#16⟩ ∧
    (s.sp.toNat < 0x6C → t.pc = nnn ∧ t.sp.toNat = s.sp.toNat + 2 ∧
      (t.mem.get (s.sp.toNat + 2)).toNat = s.pc.toNat / 256 ∧
      (t.mem.get (s.sp.toNat + 3)).toNat = s.pc.toNat % 256 ∧
      (∀ a, a ≠ s.sp.toNat + 2 → a ≠ s.sp.toNat + 3 → t.mem.get a = s.mem.get a) ∧
      OnlyMemorySpPc s t) ∧
    (0x6C ≤ s.sp.toNat → TakesError .stackOverflow s.opcode s.sp.toNat s t)

/-- 00EE: with a slot on the stack, PC is the word at SP modulo 0x1000, SP retreats by 2 and memory keeps its bytes; with the stack empty StackUnderflow is raised with SP and nothing is written (R141). -/
def Obligations.ReturnPopsTheReturnAddress : Prop :=
  ∀ (s : State), ∃ t : State, exec .ret s = .next t ∧ Instr.ret.row = ⟨0x00EE#16, 0xFFFF#16⟩ ∧
    (0x4E < s.sp.toNat →
      t.pc.toNat = ((s.mem.get s.sp.toNat).toNat * 256 + (s.mem.get (s.sp.toNat + 1)).toNat) % 0x1000 ∧
      t.sp.toNat = s.sp.toNat - 2 ∧ SameMemory s t ∧ OnlyMemorySpPc s t) ∧
    (s.sp.toNat ≤ 0x4E → TakesError .stackUnderflow s.opcode s.sp.toNat s t)

/-- A call and the return that matches it come back: PC and SP as after the call's fetch, and only the slot's two bytes of memory changed (95_test_vectors.md S7). -/
def Obligations.CallThenReturnComesBack : Prop :=
  ∀ (nnn : Addr) (s : State), 0x4E ≤ s.sp.toNat → s.sp.toNat < 0x6C →
    ∃ t u : State, exec (.call nnn) s = .next t ∧ exec .ret t = .next u ∧
      u.pc = s.pc ∧ u.sp = s.sp ∧
      (∀ a, a ≠ s.sp.toNat + 2 → a ≠ s.sp.toNat + 3 → u.mem.get a = s.mem.get a) ∧
      OnlyMemorySpPc s u

/-- 3XNN, 4XNN, 5XY0, 9XY0 add 2 to PC, modulo 0x1000, exactly when their comparison holds, and change nothing else (R145, R146, R147, R148). -/
def Obligations.ComparisonsSkipOneWord : Prop :=
  ∀ (x y : RegNum) (nn : Byte) (s : State),
    (∃ t : State, exec (.seImm x nn) s = .next t ∧ (Instr.seImm x nn).row = ⟨0x3000#16, 0xF000#16⟩ ∧ OnlyPc s t ∧
      t.pc.toNat = if s.getV x = nn then (s.pc.toNat + 2) % 0x1000 else s.pc.toNat) ∧
    (∃ t : State, exec (.sneImm x nn) s = .next t ∧ (Instr.sneImm x nn).row = ⟨0x4000#16, 0xF000#16⟩ ∧ OnlyPc s t ∧
      t.pc.toNat = if s.getV x = nn then s.pc.toNat else (s.pc.toNat + 2) % 0x1000) ∧
    (∃ t : State, exec (.seReg x y) s = .next t ∧ (Instr.seReg x y).row = ⟨0x5000#16, 0xF00F#16⟩ ∧ OnlyPc s t ∧
      t.pc.toNat = if s.getV x = s.getV y then (s.pc.toNat + 2) % 0x1000 else s.pc.toNat) ∧
    (∃ t : State, exec (.sneReg x y) s = .next t ∧ (Instr.sneReg x y).row = ⟨0x9000#16, 0xF00F#16⟩ ∧ OnlyPc s t ∧
      t.pc.toNat = if s.getV x = s.getV y then s.pc.toNat else (s.pc.toNat + 2) % 0x1000)

/-- EX9E skips exactly when key `Vx mod 16` is down, EXA1 exactly when it is up, by the level of the latch at that moment; nothing else changes (R181, R182). -/
def Obligations.KeySkipsTestTheLatch : Prop :=
  ∀ (x k : RegNum) (s : State), k.toNat = (s.getV x).toNat % 16 →
    (∃ t : State, exec (.skp x) s = .next t ∧ (Instr.skp x).row = ⟨0xE09E#16, 0xF0FF#16⟩ ∧ OnlyPc s t ∧
      t.pc.toNat = if s.keys[k.toNat] = true then (s.pc.toNat + 2) % 0x1000 else s.pc.toNat) ∧
    (∃ t : State, exec (.sknp x) s = .next t ∧ (Instr.sknp x).row = ⟨0xE0A1#16, 0xF0FF#16⟩ ∧ OnlyPc s t ∧
      t.pc.toNat = if s.keys[k.toNat] = true then s.pc.toNat else (s.pc.toNat + 2) % 0x1000)

/-! ### Display (42_display.md) -/

/-- 00E0 clears every cell and changes nothing else, VF included (R163). -/
def Obligations.ClearScreenClearsEveryCell : Prop :=
  ∀ (s : State), ∃ t : State, exec .cls s = .next t ∧ Instr.cls.row = ⟨0x00E0#16, 0xFFFF#16⟩ ∧
    (∀ r c, t.disp.cell r c = false) ∧
    SameRegsBut [] s t ∧ t.pc = s.pc ∧ SamePointers s t ∧ SameMemory s t ∧ t.keys = s.keys ∧
    SameTimers s t ∧ SameControl s t ∧ SameEnv s t

/-- DXYN toggles exactly the cells under a set sprite bit, at column Vx mod 64 and row Vy, clipped at row 31 and column 63; VF is 1 if at least one cell went from 1 to 0, else 0; when a sprite byte is above 0xFFF the lowest bad address is raised and nothing is written (R164; that Vy is not reduced and that every byte is checked first are decisions D29 and D10, log 16). -/
def Obligations.DrawTogglesTheSpriteAndReportsCollision : Prop :=
  ∀ (x y : RegNum) (n : Nibble) (s : State), ∃ t : State, exec (.drw x y n) s = .next t ∧ (Instr.drw x y n).row = ⟨0xD000#16, 0xF000#16⟩ ∧
    (n.toNat = 0 ∨ s.i.toNat + n.toNat ≤ 0x1000 →
      (∀ p q, t.disp.cell p q =
        (s.disp.cell p q ^^ decide (SpriteCovers s.mem s.i.toNat (s.getV x) (s.getV y) n.toNat p q))) ∧
      ((∃ p q, s.disp.cell p q = true ∧ t.disp.cell p q = false) → t.getV 0xF#4 = 0x01#8) ∧
      ((∀ p q, s.disp.cell p q = true → t.disp.cell p q = true) → t.getV 0xF#4 = 0x00#8) ∧
      SameRegsBut [0xF#4] s t ∧ t.pc = s.pc ∧ SamePointers s t ∧ SameMemory s t ∧ t.keys = s.keys ∧
      SameTimers s t ∧ SameControl s t ∧ SameEnv s t) ∧
    (n.toNat ≠ 0 → 0x1000 < s.i.toNat + n.toNat →
      TakesError .addressOutOfRange s.opcode (max s.i.toNat 0x1000) s t)

/-- Drawing the same sprite twice at the same place gives the display back, and onto a blank display the first draw reports no collision and the second one does, if any cell was drawn at all (the source's test quoted in 42_display.md section 3). VF must not be one of the coordinates, since the first draw writes it. -/
def Obligations.DrawingTwiceErases : Prop :=
  ∀ (x y : RegNum) (n : Nibble) (s : State), x ≠ 0xF#4 → y ≠ 0xF#4 →
    n.toNat = 0 ∨ s.i.toNat + n.toNat ≤ 0x1000 →
    ∃ t u : State, exec (.drw x y n) s = .next t ∧ exec (.drw x y n) t = .next u ∧
      u.disp = s.disp ∧
      ((∀ p q, s.disp.cell p q = false) → t.getV 0xF#4 = 0x00#8 ∧
        (t.disp ≠ s.disp → u.getV 0xF#4 = 0x01#8))

/-! ### Keypad, key-wait and timers (43_keypad_timers.md) -/

/-- FX07 reads DT into Vx, FX15 writes DT from Vx, FX18 writes ST from Vx; nothing else changes (R183, R186, R187). -/
def Obligations.TimerTransfers : Prop :=
  ∀ (x : RegNum) (s : State),
    (∃ t : State, exec (.ldVxDT x) s = .next t ∧ (Instr.ldVxDT x).row = ⟨0xF007#16, 0xF0FF#16⟩ ∧ t.getV x = s.dt ∧ OnlyRegs [x] s t) ∧
    (∃ t : State, exec (.ldDTVx x) s = .next t ∧ (Instr.ldDTVx x).row = ⟨0xF015#16, 0xF0FF#16⟩ ∧ t.dt = s.getV x ∧ OnlyRegs [] { s with dt := t.dt } t) ∧
    (∃ t : State, exec (.ldSTVx x) s = .next t ∧ (Instr.ldSTVx x).row = ⟨0xF018#16, 0xF0FF#16⟩ ∧ t.st = s.getV x ∧ OnlyRegs [] { s with st := t.st } t)

/-- FX0A puts the engine in WaitingForKey with x pending; PC stays at the resume address and no register is written (R184). -/
def Obligations.KeyWaitSuspendsTheEngine : Prop :=
  ∀ (x : RegNum) (s : State),
    ∃ t : State, exec (.ldVxK x) s = .next t ∧ (Instr.ldVxK x).row = ⟨0xF00A#16, 0xF0FF#16⟩ ∧ t.waitX = x ∧ t.estate = .waitingForKey ∧
      OnlyRegs [] { s with waitX := x, estate := .waitingForKey } t

/-- A key-down event in WaitingForKey sets the latch, writes the code's low 4 bits into the pending register and makes the engine Ready, with PC unchanged; a key-up event in WaitingForKey only clears the latch (R185). -/
def Obligations.KeyDownEndsTheWait : Prop :=
  ∀ (s : State) (code : Byte) (down : Bool) (es : List Event) (k : Nibble),
    s.inbox = .key code down :: es → s.estate = .waitingForKey → k.toNat = code.toNat % 16 →
    ∃ t : State, step s = .next t ∧
      (∀ j : Nibble, t.keys[j.toNat] = if j = k then down else s.keys[j.toNat]) ∧
      (down = true → t.estate = .ready ∧ (t.getV s.waitX).toNat = code.toNat % 16 ∧
        OnlyRegs [s.waitX] { s with keys := t.keys, estate := .ready, inbox := es } t) ∧
      (down = false → OnlyRegs [] { s with keys := t.keys, inbox := es } t)

/-- A key event that does not end a wait only updates the latch, in Ready and in Halted (43_keypad_timers.md section 4, the spec's derivation from the source's "no double-resume"). -/
def Obligations.OtherKeyEventsOnlyUpdateTheLatch : Prop :=
  ∀ (s : State) (code : Byte) (down : Bool) (es : List Event) (k : Nibble),
    s.inbox = .key code down :: es → s.estate ≠ .waitingForKey → k.toNat = code.toNat % 16 →
    ∃ t : State, step s = .next t ∧
      (∀ j : Nibble, t.keys[j.toNat] = if j = k then down else s.keys[j.toNat]) ∧
      OnlyRegs [] { s with keys := t.keys, inbox := es } t

/-- A tick decrements each non-zero timer by one, independently, in Ready and in WaitingForKey, and does nothing in Halted (R188; Halted is decision D32, log 21). -/
def Obligations.TickCountsTheTimersDown : Prop :=
  ∀ (s : State) (es : List Event), s.inbox = .tick :: es →
    ∃ t : State, step s = .next t ∧
      (s.estate ≠ .halted → t.dt.toNat = s.dt.toNat - 1 ∧ t.st.toNat = s.st.toNat - 1) ∧
      (s.estate = .halted → t.dt = s.dt ∧ t.st = s.st) ∧
      OnlyRegs [] { s with dt := t.dt, st := t.st, inbox := es } t

/-! ### Index register and memory transfers (44_memory_index.md) -/

/-- ANNN sets I to nnn; FX1E adds Vx to I modulo 0x10000; FX29 sets I to five times the low nibble of Vx; nothing else changes, VF included (R201, R202, R203; I unmasked and VF unwritten are decision D11, the low nibble D14; log 13, log 15). -/
def Obligations.IndexRegisterLoads : Prop :=
  ∀ (nnn : Addr) (x : RegNum) (s : State),
    (∃ t : State, exec (.ldI nnn) s = .next t ∧ (Instr.ldI nnn).row = ⟨0xA000#16, 0xF000#16⟩ ∧ t.i.toNat = nnn.toNat ∧ OnlyI s t) ∧
    (∃ t : State, exec (.addI x) s = .next t ∧ (Instr.addI x).row = ⟨0xF01E#16, 0xF0FF#16⟩ ∧
      t.i.toNat = (s.i.toNat + (s.getV x).toNat) % 0x10000 ∧ OnlyI s t) ∧
    (∃ t : State, exec (.ldF x) s = .next t ∧ (Instr.ldF x).row = ⟨0xF029#16, 0xF0FF#16⟩ ∧ t.i.toNat = (s.getV x).toNat % 16 * 5 ∧ OnlyI s t)

/-- FX33 stores the hundreds, tens and units digits of Vx at I, I+1, I+2 and nothing else; when one of the three addresses is above 0xFFF the lowest such is raised and nothing is written (R204). -/
def Obligations.DecimalDigitsAreStored : Prop :=
  ∀ (x : RegNum) (s : State), ∃ t : State, exec (.ldB x) s = .next t ∧ (Instr.ldB x).row = ⟨0xF033#16, 0xF0FF#16⟩ ∧
    (s.i.toNat + 2 ≤ 0xFFF →
      ((t.mem.get s.i.toNat).toNat * 100 + (t.mem.get (s.i.toNat + 1)).toNat * 10
        + (t.mem.get (s.i.toNat + 2)).toNat = (s.getV x).toNat ∧
        (t.mem.get (s.i.toNat + 1)).toNat ≤ 9 ∧ (t.mem.get (s.i.toNat + 2)).toNat ≤ 9) ∧
      (∀ a, a < s.i.toNat ∨ s.i.toNat + 2 < a → t.mem.get a = s.mem.get a) ∧
      SameRegsBut [] s t ∧ t.pc = s.pc ∧ SamePointers s t ∧ SameDevices s t ∧ SameControl s t ∧ SameEnv s t) ∧
    (0xFFF < s.i.toNat + 2 → TakesError .addressOutOfRange s.opcode (max s.i.toNat 0x1000) s t)

/-- FX55 stores V0 to Vx inclusive at I to I + x and nothing else, I unchanged; when I + x is above 0xFFF the lowest bad address is raised and nothing is written (R205; I unchanged is decision D12, log 14). -/
def Obligations.RegisterBlockIsStoredInclusive : Prop :=
  ∀ (x : RegNum) (s : State), ∃ t : State, exec (.stRegs x) s = .next t ∧ (Instr.stRegs x).row = ⟨0xF055#16, 0xF0FF#16⟩ ∧
    (s.i.toNat + x.toNat ≤ 0xFFF →
      (∀ r : RegNum, r.toNat ≤ x.toNat → t.mem.get (s.i.toNat + r.toNat) = s.getV r) ∧
      (∀ a, a < s.i.toNat ∨ s.i.toNat + x.toNat < a → t.mem.get a = s.mem.get a) ∧
      SameRegsBut [] s t ∧ t.pc = s.pc ∧ SamePointers s t ∧ SameDevices s t ∧ SameControl s t ∧ SameEnv s t) ∧
    (0xFFF < s.i.toNat + x.toNat → TakesError .addressOutOfRange s.opcode (max s.i.toNat 0x1000) s t)

/-- FX65 loads V0 to Vx inclusive from I to I + x, registers above x and everything else unchanged; when I + x is above 0xFFF the lowest bad address is raised and nothing is written (R206; I unchanged is decision D12, log 14). -/
def Obligations.RegisterBlockIsLoadedInclusive : Prop :=
  ∀ (x : RegNum) (s : State), ∃ t : State, exec (.ldRegs x) s = .next t ∧ (Instr.ldRegs x).row = ⟨0xF065#16, 0xF0FF#16⟩ ∧
    (s.i.toNat + x.toNat ≤ 0xFFF →
      (∀ r : RegNum, t.getV r = if r.toNat ≤ x.toNat then s.mem.get (s.i.toNat + r.toNat) else s.getV r) ∧
      t.pc = s.pc ∧ SamePointers s t ∧ SameMemory s t ∧ SameDevices s t ∧ SameControl s t ∧ SameEnv s t) ∧
    (0xFFF < s.i.toNat + x.toNat → TakesError .addressOutOfRange s.opcode (max s.i.toNat 0x1000) s t)

/-- What FX55 stored, FX65 loads: in any later state `u` with the same I and the memory the store left, the load gives V0 to Vx the values they had (44_memory_index.md section 3). -/
def Obligations.StoredBlockIsLoadedBack : Prop :=
  ∀ (x : RegNum) (s u : State), s.i.toNat + x.toNat ≤ 0xFFF →
    ∃ t : State, exec (.stRegs x) s = .next t ∧
      (u.i = s.i → u.mem = t.mem → ∃ w : State, exec (.ldRegs x) u = .next w ∧
        ∀ r : RegNum, r.toNat ≤ x.toNat → w.getV r = s.getV r)

/-- A store is seen by the next fetch: when FX55 stores over the word at PC, the next step latches the two register values it stored there (20_memory.md section 6, the spec's derivation). -/
def Obligations.StoreIsSeenByTheNextFetch : Prop :=
  ∀ (x k : RegNum) (s : State), s.inbox = [] → s.estate = .ready →
    s.i.toNat + x.toNat ≤ 0xFFF → k.toNat < x.toNat → s.pc.toNat = s.i.toNat + k.toNat →
    ∃ t : State, exec (.stRegs x) s = .next t ∧
      ∃ u : State, step { t with inbox := [.fetch] } = .next u ∧
        u.opcode = joinBytes (s.getV k) (s.getV (k + 1#4))

/-! ### Errors, events, reset (60_exceptions.md, 70_reset_and_hazards.md) -/

/-- Errors are precise: an instruction that ends in Halted changes nothing but the engine state and the record, and the record holds its word and the error the instruction can raise; one that raises nothing never ends in Halted (60_exceptions.md section 1, decision D19 and the spec's derivation of who raises what; log 20). -/
def Obligations.InstructionErrorsArePrecise : Prop :=
  ∀ (i : Instr) (s t : State), s.estate ≠ .halted → exec i s = .next t → t.estate = .halted →
    raises i ≠ .none ∧ TakesError (raises i) s.opcode t.errAddr.toNat s t

/-- Each piece of state is changed by an instruction only where the spec lets it be: I by ANNN, FX1E, FX29; SP by 2NNN and 00EE; the framebuffer by 00E0 and DXYN; DT by FX15; ST by FX18; memory by 2NNN, FX33, FX55; the pending register by FX0A; V0 to VF as in the access table; PC by jumps, call, return and skips; the random source by CXNN; the engine state by FX0A or by an error the instruction can raise, the error record by such an error; the keypad latch, the opcode latch, the inbox and the parameter FONT by none (10_state.md sections 1 to 7, the spec's derived access tables). -/
def Obligations.StateIsWrittenOnlyByItsInstructions : Prop :=
  ∀ (i : Instr) (s t : State), exec i s = .next t →
    (∀ r, t.getV r ≠ s.getV r → writesReg i r) ∧
    (t.pc ≠ s.pc → writesPc i) ∧
    (t.i ≠ s.i → (∃ nnn, i = .ldI nnn) ∨ ∃ x, i = .addI x ∨ i = .ldF x) ∧
    (t.sp ≠ s.sp → i = .ret ∨ ∃ nnn, i = .call nnn) ∧
    (t.disp ≠ s.disp → i = .cls ∨ ∃ x y n, i = .drw x y n) ∧
    (t.dt ≠ s.dt → ∃ x, i = .ldDTVx x) ∧
    (t.st ≠ s.st → ∃ x, i = .ldSTVx x) ∧
    (∀ a, t.mem.get a ≠ s.mem.get a → (∃ nnn, i = .call nnn) ∨ ∃ x, i = .ldB x ∨ i = .stRegs x) ∧
    (t.waitX ≠ s.waitX → ∃ x, i = .ldVxK x) ∧
    (t.draws ≠ s.draws → ∃ x nn, i = .rnd x nn) ∧
    (t.estate ≠ s.estate →
      (t.estate = .waitingForKey ∧ ∃ x, i = .ldVxK x) ∨ (t.estate = .halted ∧ raises i ≠ .none)) ∧
    (t.errKind ≠ s.errKind ∨ t.errOpcode ≠ s.errOpcode ∨ t.errAddr ≠ s.errAddr →
      t.estate = .halted ∧ raises i ≠ .none ∧ t.errKind = raises i) ∧
    t.keys = s.keys ∧ t.opcode = s.opcode ∧ t.inbox = s.inbox ∧ t.font = s.font

/-- No instruction leaves Halted: from Halted only a reset or a ROM load makes the engine anything else, and both leave the block in a state that does not depend on the failed program (R232), with the machine's own font installed. -/
def Obligations.OnlyResetOrLoadLeavesHalted : Prop :=
  ∀ (s t : State), s.estate = .halted → step s = .next t →
    (t.estate ≠ .halted → ∃ es, s.inbox = .reset :: es ∨ ∃ rom, s.inbox = .loadRom rom :: es) ∧
    (∀ es, s.inbox = .reset :: es → t = { State.resetWith s.font with draws := s.draws, inbox := es }) ∧
    (∀ es rom, s.inbox = .loadRom rom :: es →
      step { State.resetWith s.font with draws := s.draws, inbox := .loadRom rom :: es } = .next t)

/-- In Halted a step, a single fetch, a single execute, a tick and a snapshot do nothing, a key event only updates the latch, and the first error record is kept (R233). -/
def Obligations.HaltedKeepsEverythingButTheLatch : Prop :=
  ∀ (s t : State), s.estate = .halted → step s = .next t →
    (∀ es, s.inbox ≠ .reset :: es) → (∀ rom es, s.inbox ≠ .loadRom rom :: es) →
    OnlyRegs [] { s with keys := t.keys, inbox := t.inbox } t ∧
    t.inbox = s.inbox.tail ∧
    (t.keys ≠ s.keys → ∃ code down es, s.inbox = .key code down :: es)

/-- WaitingForKey is left only by a key-down event, a reset or a ROM load (60_exceptions.md section 6 and 7). -/
def Obligations.OnlyKeyDownResetOrLoadLeavesTheWait : Prop :=
  ∀ (s t : State), s.estate = .waitingForKey → step s = .next t → t.estate ≠ .waitingForKey →
    ∃ es, (∃ code, s.inbox = .key code true :: es) ∨ s.inbox = .reset :: es ∨ ∃ rom, s.inbox = .loadRom rom :: es

/-- The state after reset, with the default font: every register, the timers, the display, the keypad, the control state and every byte of memory at the value of the table of 10_state.md section 10 (the values above the font and of the control state are decision D21, the font bytes are the spec's general knowledge; log 1, log 2, log 22). -/
def Obligations.ResetStateHasTheSpecValues : Prop :=
  (∀ r, State.reset.getV r = 0x00#8) ∧ State.reset.i = 0x0000#16 ∧ State.reset.pc = 0x200#12 ∧
  State.reset.sp = 0x4E#8 ∧ State.reset.dt = 0x00#8 ∧ State.reset.st = 0x00#8 ∧
  (∀ r c, State.reset.disp.cell r c = false) ∧ (∀ k : Nibble, State.reset.keys[k.toNat] = false) ∧
  State.reset.estate = .ready ∧ State.reset.waitX = 0x0#4 ∧ State.reset.opcode = 0x0000#16 ∧
  State.reset.errKind = .none ∧ State.reset.errOpcode = 0x0000#16 ∧ State.reset.errAddr = 0#17 ∧
  State.reset.mem.getList 0x000 80 =
    [0xF0, 0x90, 0x90, 0x90, 0xF0, 0x20, 0x60, 0x20, 0x20, 0x70, 0xF0, 0x10, 0xF0, 0x80, 0xF0, 0xF0, 0x10, 0xF0, 0x10, 0xF0,
     0x90, 0x90, 0xF0, 0x10, 0x10, 0xF0, 0x80, 0xF0, 0x10, 0xF0, 0xF0, 0x80, 0xF0, 0x90, 0xF0, 0xF0, 0x10, 0x20, 0x40, 0x40,
     0xF0, 0x90, 0xF0, 0x90, 0xF0, 0xF0, 0x90, 0xF0, 0x10, 0xF0, 0xF0, 0x90, 0xF0, 0x90, 0x90, 0xE0, 0x90, 0xE0, 0x90, 0xE0,
     0xF0, 0x80, 0x80, 0x80, 0xF0, 0xE0, 0x90, 0x90, 0x90, 0xE0, 0xF0, 0x80, 0xF0, 0x80, 0xF0, 0xF0, 0x80, 0xF0, 0x80, 0x80] ∧
  (∀ a, 0x050 ≤ a → State.reset.mem.get a = 0x00#8)

/-- A reset, in every engine state, gives the reset state of the machine's font in one event, and a second reset changes nothing more; only the model's own fields go on (70_reset_and_hazards.md section 1, decision D21 and the spec's derivation of idempotence; log 8). -/
def Obligations.ResetIsAcceptedInEveryStateAndIdempotent : Prop :=
  ∀ (s : State) (es : List Event), s.inbox = .reset :: es →
    ∃ t : State, step s = .next t ∧ t = { State.resetWith s.font with draws := s.draws, inbox := es } ∧
      step { t with inbox := .reset :: es } = .next t

/-- A ROM load resets and then copies the bytes verbatim from 0x200; a ROM of up to 0xE00 bytes loads completely and leaves the engine Ready at 0x200; a longer one leaves its first 0xE00 bytes and the engine Halted with AddressOutOfRange(0x1000) (R264; the long ROM is decision D22, log 23). -/
def Obligations.RomLoadCopiesVerbatimFrom200 : Prop :=
  ∀ (s : State) (rom : List Byte) (es : List Event), s.inbox = .loadRom rom :: es →
    ∃ t : State, step s = .next t ∧
      (∀ k, k < rom.length → 0x200 + k ≤ 0xFFF → t.mem.get (0x200 + k) = rom.getD k 0) ∧
      (∀ a, a < 0x200 ∨ 0x200 + rom.length ≤ a ∨ 0xFFF < a → t.mem.get a = (State.resetWith s.font).mem.get a) ∧
      (rom.length ≤ 0xE00 → t = { State.resetWith s.font with mem := t.mem, draws := s.draws, inbox := es }) ∧
      (0xE00 < rom.length → TakesError .addressOutOfRange 0x0000#16 0x1000
        { State.resetWith s.font with mem := t.mem, draws := s.draws, inbox := es } t)

/-- A parked engine stays: at a self-jump every step leaves the state as it is, but for the opcode latch, which holds the self-jump from the first such step on (60_exceptions.md section 7, decision D26). -/
def Obligations.ParkedEngineStays : Prop :=
  ∀ (s : State), s.inbox = [] → s.Parked →
    ∃ t : State, step s = .next t ∧ t = { s with opcode := encode (.jp s.pc) } ∧ t.Parked ∧ step t = .next t

/-- No instruction reads the sound timer: two machines that differ only in ST take steps that differ only in ST (10_state.md section 6: "no instruction reads ST"). -/
def Obligations.NoStepDependsOnTheSoundTimer : Prop :=
  ∀ (s : State) (b : Byte), s.inbox = [] →
    ∃ t u : State, step s = .next t ∧ step { s with st := b } = .next u ∧ u = { t with st := u.st }

/-- The snapshot shows the registers, the stack window 0x050 to 0x06D, the opcode latch, the keypad, the framebuffer, the control state and the memory slice asked for; a slice outside 0x000 to 0xFFF is refused; a snapshot event changes no state (60_exceptions.md section 4, decision D24; log 10). -/
def Obligations.SnapshotShowsTheState : Prop :=
  ∀ (s : State) (base len : Nat),
    (base + len ≤ 0x1000 → ∃ n : Snapshot, s.snapshot base len = .next n ∧
      n.slice.length = len ∧ (∀ k, k < len → n.slice.getD k 0 = s.mem.get (base + k)) ∧
      n.stack.length = 30 ∧ (∀ k, k < 30 → n.stack.getD k 0 = s.mem.get (0x050 + k)) ∧
      n.pc = s.pc ∧ n.sp = s.sp ∧ n.i = s.i ∧ n.dt = s.dt ∧ n.st = s.st ∧ n.v = s.v ∧ n.opcode = s.opcode ∧
      n.keys = s.keys ∧ n.disp = s.disp ∧ n.estate = s.estate ∧ n.waitX = s.waitX ∧
      n.errKind = s.errKind ∧ n.errOpcode = s.errOpcode ∧ n.errAddr = s.errAddr) ∧
    (0x1000 < base + len → s.snapshot base len = .refused (.snapshotSlice base len)) ∧
    (∀ es, s.inbox = .snapshot base len :: es → step s = .next { s with inbox := es })

/-- One clock with several strobes: reset comes first, then the ROM load, then the key event, then the engine's strobe, then the tick, each in the state the one before left, and the snapshot reads the state after all of them; and the framebuffer port's bit 64r + c is cell (r, c) (60_exceptions.md sections 4 and 5, decisions D1 and D2; log 25). -/
def Obligations.ClockOrderAndFramebufferPort : Prop :=
  (∀ (s : State) (load : Option (List Byte)) (key : Option (Nibble × Bool)) (engine : Option EngineStrobe) (tick : Bool) (snap : Option (Nat × Nat)),
    s.clock ⟨true, load, key, engine, tick, snap⟩
      = ({ State.resetWith s.font with draws := s.draws, inbox := s.inbox } : State).clock ⟨false, load, key, engine, tick, snap⟩) ∧
  (∀ (s : State) (rom : List Byte) (key : Option (Nibble × Bool)) (engine : Option EngineStrobe) (tick : Bool) (snap : Option (Nat × Nat)),
    s.clock ⟨false, some rom, key, engine, tick, snap⟩ = (s.loadRom rom).clock ⟨false, none, key, engine, tick, snap⟩) ∧
  (∀ (s : State) (rom : List Byte) (k : Nibble) (down : Bool), rom.length ≤ 0xE00 →
    s.clock ⟨false, some rom, some (k, down), none, false, none⟩ = .next ((s.loadRom rom).setKey (k.setWidth 8) down)) ∧
  (∀ (s : State) (k : Nibble) (down : Bool) (engine : Option EngineStrobe) (tick : Bool) (snap : Option (Nat × Nat)),
    s.clock ⟨false, none, some (k, down), engine, tick, snap⟩
      = (s.keyEvent (k.setWidth 8) down).clock ⟨false, none, none, engine, tick, snap⟩) ∧
  (∀ (s : State) (k : Nibble) (down : Bool), s.estate = .ready →
    ∃ u : State, (s.setKey (k.setWidth 8) down).engineStep = .next u ∧
      s.clock ⟨false, none, some (k, down), some .step, true, none⟩ = .next u.tick) ∧
  (∀ (s : State) (g : EngineStrobe), ∃ u : State, step { s with inbox := [g.event] } = .next u ∧
    ({ s with inbox := [] } : State).clock ⟨false, none, none, some g, true, none⟩ = .next u.tick) ∧
  (∀ (s t : State) (p : Strobes) (base len : Nat), s.clock { p with snapshot := none } = .next t →
    s.clock { p with snapshot := some (base, len) } = .next t ∧
    s.clockSnapshot { p with snapshot := none } = .next none ∧
    (base + len ≤ 0x1000 → ∃ n : Snapshot, t.snapshot base len = .next n ∧
      s.clockSnapshot { p with snapshot := some (base, len) } = .next (some n)) ∧
    (0x1000 < base + len →
      s.clockSnapshot { p with snapshot := some (base, len) } = .refused (.snapshotSlice base len))) ∧
  (∀ (s : State) (r c : Nat), r < 32 → c < 64 → s.portFb (64 * r + c) = s.disp.cell r c)

/-! ### The invariant -/

/-- The invariant holds right after reset, whatever events wait and whatever the font: memory is in its canonical form, SP is the empty stack's, and there is no error record. -/
def Obligations.InvariantHoldsAtReset : Prop :=
  ∀ (f : Font) (es : List Event),
    ({ State.reset with inbox := es } : State).Inv ∧ ({ State.resetWith f with inbox := es } : State).Inv

/-- Every step keeps the invariant, from every state that meets it, whichever event or instruction it takes: memory stays canonical and inside 0x000 to 0xFFF, SP stays one of its 16 values, there is an error record exactly in Halted, and the record holds what the table of R226 says for its kind (10_state.md sections 3 and 7, 60_exceptions.md section 1; decisions D18 and D19 and the spec's derivation of SP's values). -/
def Obligations.EveryStepKeepsTheInvariant : Prop :=
  ∀ (s t : State), s.Inv → step s = .next t → t.Inv

/-- In every run from reset, with any font, of any ROM under any finite schedule of events, any number of steps ends in a state that meets the invariant and still has its font, and the run never stops (10_state.md sections 3, 7 and 9, 60_exceptions.md sections 1 and 7). -/
def Obligations.EveryRunUnderAnyEventsKeepsTheInvariant : Prop :=
  ∀ (f : Font) (es : List Event) (n : Nat),
    (∃ t : State, Host.Core.run Sys2Proof.core n ({ State.reset with inbox := es } : State) = .next t ∧ t.Inv) ∧
    (∃ t : State, Host.Core.run Sys2Proof.core n ({ State.resetWith f with inbox := es } : State) = .next t ∧ t.Inv ∧ t.font = f)

/-! ### The parameter FONT and the ports -/

/-- FONT is a parameter of the machine, with the table of R39 as its default: no step changes it, a reset event installs its 80 bytes at 0x000 to 0x04F (so glyph k is at 5k) with 0x00 above, and the machine with the default font is the reset state (00_scope.md section 4, 10_state.md section 9, 70_reset_and_hazards.md section 1; holding the parameter in the state is the model's form, the 0x00 is decision D21; log 1, log 2). -/
def Obligations.FontIsAParameterOfTheMachine : Prop :=
  (∀ (s t : State), step s = .next t → t.font = s.font) ∧
  (∀ (s : State) (es : List Event), s.inbox = .reset :: es → ∃ t : State, step s = .next t ∧
    (∀ k, (h : k < 80) → t.mem.get k = s.font[k]) ∧ (∀ a, 80 ≤ a → t.mem.get a = 0x00#8)) ∧
  State.resetWith defaultFont = State.reset

/-- The output ports show the state: `estate` as 0, 1, 2; `err_kind` as the numbers 0 to 4; bit k of `keys` as key k being down; `sound` as ST; `mem_rdata` as the byte at `mem_raddr`; `fb` bit by bit (60_exceptions.md sections 1 and 5; the numbers of `err_kind` are decision D18, the ports decision D1; log 20, log 25). -/
def Obligations.OutputPortsShowTheState : Prop :=
  (EngineState.ready.code.toNat = 0 ∧ EngineState.waitingForKey.code.toNat = 1 ∧ EngineState.halted.code.toNat = 2) ∧
  (ErrKind.none.code.toNat = 0 ∧ ErrKind.addressOutOfRange.code.toNat = 1 ∧ ErrKind.stackOverflow.code.toNat = 2 ∧
    ErrKind.stackUnderflow.code.toNat = 3 ∧ ErrKind.unrecognizedOpcode.code.toNat = 4) ∧
  (∀ (s : State) (k : Nibble), s.portKeys k = s.isDown (k.setWidth 8)) ∧
  (∀ (s : State), s.portSound = s.st) ∧
  (∀ (s : State) (a : Addr), s.readByte a.toNat = .ok (s.portMem a)) ∧
  (∀ (s : State) (bit : Nat), bit < 2048 → s.portFb bit = s.disp.cell (bit / 64) (bit % 64))
end

