-- ==== Sys2Proof/Laws/Decode.lean ====
section
/-! SUPPORT. Words and their fields as numbers, the fields of an encoded word format by format, and what the masks of the opcode table keep. -/

namespace Sys2Proof

theorem toNat_append_eq {m n : Nat} (a : BitVec m) (b : BitVec n) :
    (a ++ b).toNat = a.toNat * 2 ^ n + b.toNat := by
  rw [BitVec.toNat_append, ← Nat.shiftLeft_add_eq_or_of_lt b.isLt, Nat.shiftLeft_eq]

/-! ### Fields and formats as numbers (R91, R92) -/

theorem toNat_fieldG (w : Word) : (fieldG w).toNat = w.toNat / 4096 := by
  have := w.isLt
  simp only [fieldG, BitVec.extractLsb'_toNat, Nat.shiftRight_eq_div_pow]; omega

theorem toNat_fieldX (w : Word) : (fieldX w).toNat = w.toNat / 256 % 16 := by
  simp only [fieldX, BitVec.extractLsb'_toNat, Nat.shiftRight_eq_div_pow]

theorem toNat_fieldY (w : Word) : (fieldY w).toNat = w.toNat / 16 % 16 := by
  simp only [fieldY, BitVec.extractLsb'_toNat, Nat.shiftRight_eq_div_pow]

theorem toNat_fieldN (w : Word) : (fieldN w).toNat = w.toNat % 16 := by
  simp only [fieldN, BitVec.extractLsb'_toNat, Nat.shiftRight_eq_div_pow]; omega

theorem toNat_fieldNN (w : Word) : (fieldNN w).toNat = w.toNat % 256 := by
  simp only [fieldNN, BitVec.extractLsb'_toNat, Nat.shiftRight_eq_div_pow]; omega

theorem toNat_fieldNNN (w : Word) : (fieldNNN w).toNat = w.toNat % 4096 := by
  simp only [fieldNNN, BitVec.extractLsb'_toNat, Nat.shiftRight_eq_div_pow]; omega

theorem toNat_highByte (w : Word) : (highByte w).toNat = w.toNat / 256 := by
  have := w.isLt
  simp only [highByte, BitVec.extractLsb'_toNat, Nat.shiftRight_eq_div_pow]; omega

theorem toNat_lowByte (w : Word) : (lowByte w).toNat = w.toNat % 256 := by
  simp only [lowByte, BitVec.extractLsb'_toNat, Nat.shiftRight_eq_div_pow]; omega

theorem toNat_joinBytes (hi lo : Byte) : (joinBytes hi lo).toNat = hi.toNat * 256 + lo.toNat := by
  show (hi ++ lo : BitVec (8 + 8)).toNat = _
  simp only [toNat_append_eq]; omega

@[simp] theorem joinBytes_high_low (w : Word) : joinBytes (highByte w) (lowByte w) = w := by
  apply BitVec.eq_of_toNat_eq
  rw [toNat_joinBytes, toNat_highByte, toNat_lowByte]; omega

@[simp] theorem highByte_joinBytes (hi lo : Byte) : highByte (joinBytes hi lo) = hi := by
  apply BitVec.eq_of_toNat_eq
  have := lo.isLt
  rw [toNat_highByte, toNat_joinBytes]; omega

@[simp] theorem lowByte_joinBytes (hi lo : Byte) : lowByte (joinBytes hi lo) = lo := by
  apply BitVec.eq_of_toNat_eq
  have := lo.isLt
  rw [toNat_lowByte, toNat_joinBytes]; omega

theorem toNat_encodeFA (g : Nibble) (a : Addr) : (encodeFA g a).toNat = g.toNat * 4096 + a.toNat := by
  show (g ++ a : BitVec (4 + 12)).toNat = _
  simp only [toNat_append_eq]; omega

theorem toNat_encodeFB (g : Nibble) (x : RegNum) (nn : Byte) :
    (encodeFB g x nn).toNat = g.toNat * 4096 + x.toNat * 256 + nn.toNat := by
  show (g ++ x ++ nn : BitVec (4 + 4 + 8)).toNat = _
  simp only [toNat_append_eq]; omega

theorem toNat_encodeFR (g : Nibble) (x y : RegNum) (n : Nibble) :
    (encodeFR g x y n).toNat = g.toNat * 4096 + x.toNat * 256 + y.toNat * 16 + n.toNat := by
  show (g ++ x ++ y ++ n : BitVec (4 + 4 + 4 + 4)).toNat = _
  simp only [toNat_append_eq]; omega

theorem toNat_encodeFX (g : Nibble) (x : RegNum) (f : Byte) :
    (encodeFX g x f).toNat = g.toNat * 4096 + x.toNat * 256 + f.toNat := by
  show (g ++ x ++ f : BitVec (4 + 4 + 8)).toNat = _
  simp only [toNat_append_eq]; omega

/-! ### The fields of each format -/

@[simp] theorem fieldG_encodeFA (g : Nibble) (a : Addr) : fieldG (encodeFA g a) = g := by
  apply BitVec.eq_of_toNat_eq; rw [toNat_fieldG, toNat_encodeFA]; omega

@[simp] theorem fieldNNN_encodeFA (g : Nibble) (a : Addr) : fieldNNN (encodeFA g a) = a := by
  apply BitVec.eq_of_toNat_eq; rw [toNat_fieldNNN, toNat_encodeFA]; omega

@[simp] theorem fieldG_encodeFB (g : Nibble) (x : RegNum) (nn : Byte) : fieldG (encodeFB g x nn) = g := by
  apply BitVec.eq_of_toNat_eq; rw [toNat_fieldG, toNat_encodeFB]; omega

@[simp] theorem fieldX_encodeFB (g : Nibble) (x : RegNum) (nn : Byte) : fieldX (encodeFB g x nn) = x := by
  apply BitVec.eq_of_toNat_eq; rw [toNat_fieldX, toNat_encodeFB]; omega

@[simp] theorem fieldNN_encodeFB (g : Nibble) (x : RegNum) (nn : Byte) : fieldNN (encodeFB g x nn) = nn := by
  apply BitVec.eq_of_toNat_eq; rw [toNat_fieldNN, toNat_encodeFB]; omega

@[simp] theorem fieldG_encodeFR (g : Nibble) (x y : RegNum) (n : Nibble) : fieldG (encodeFR g x y n) = g := by
  apply BitVec.eq_of_toNat_eq; rw [toNat_fieldG, toNat_encodeFR]; omega

@[simp] theorem fieldX_encodeFR (g : Nibble) (x y : RegNum) (n : Nibble) : fieldX (encodeFR g x y n) = x := by
  apply BitVec.eq_of_toNat_eq; rw [toNat_fieldX, toNat_encodeFR]; omega

@[simp] theorem fieldY_encodeFR (g : Nibble) (x y : RegNum) (n : Nibble) : fieldY (encodeFR g x y n) = y := by
  apply BitVec.eq_of_toNat_eq; rw [toNat_fieldY, toNat_encodeFR]; omega

@[simp] theorem fieldN_encodeFR (g : Nibble) (x y : RegNum) (n : Nibble) : fieldN (encodeFR g x y n) = n := by
  apply BitVec.eq_of_toNat_eq; rw [toNat_fieldN, toNat_encodeFR]; omega

@[simp] theorem fieldG_encodeFX (g : Nibble) (x : RegNum) (f : Byte) : fieldG (encodeFX g x f) = g := by
  apply BitVec.eq_of_toNat_eq; rw [toNat_fieldG, toNat_encodeFX]; omega

@[simp] theorem fieldX_encodeFX (g : Nibble) (x : RegNum) (f : Byte) : fieldX (encodeFX g x f) = x := by
  apply BitVec.eq_of_toNat_eq; rw [toNat_fieldX, toNat_encodeFX]; omega

@[simp] theorem fieldNN_encodeFX (g : Nibble) (x : RegNum) (f : Byte) : fieldNN (encodeFX g x f) = f := by
  apply BitVec.eq_of_toNat_eq; rw [toNat_fieldNN, toNat_encodeFX]; omega

/-! ### A word is its fields -/

theorem encodeFA_fields (w : Word) : encodeFA (fieldG w) (fieldNNN w) = w := by
  apply BitVec.eq_of_toNat_eq
  rw [toNat_encodeFA, toNat_fieldG, toNat_fieldNNN]; omega

theorem encodeFB_fields (w : Word) : encodeFB (fieldG w) (fieldX w) (fieldNN w) = w := by
  apply BitVec.eq_of_toNat_eq
  rw [toNat_encodeFB, toNat_fieldG, toNat_fieldX, toNat_fieldNN]; omega

theorem encodeFR_fields (w : Word) : encodeFR (fieldG w) (fieldX w) (fieldY w) (fieldN w) = w := by
  apply BitVec.eq_of_toNat_eq
  rw [toNat_encodeFR, toNat_fieldG, toNat_fieldX, toNat_fieldY, toNat_fieldN]; omega

theorem encodeFX_fields (w : Word) : encodeFX (fieldG w) (fieldX w) (fieldNN w) = w := encodeFB_fields w

/-! ### What the masks of the table keep (R99) -/

theorem and_maskF000 (w : Word) : w &&& 0xF000#16 = encodeFA (fieldG w) 0#12 := by
  conv => lhs; rw [← encodeFA_fields w]
  show ((fieldG w ++ fieldNNN w : BitVec (4 + 12)) &&& (BitVec.allOnes 4 ++ 0#12 : BitVec (4 + 12)))
    = (fieldG w ++ 0#12 : BitVec (4 + 12))
  rw [BitVec.and_append, BitVec.and_allOnes, BitVec.and_zero]

theorem and_maskF00F (w : Word) : w &&& 0xF00F#16 = encodeFR (fieldG w) 0#4 0#4 (fieldN w) := by
  conv => lhs; rw [← encodeFR_fields w]
  show ((fieldG w ++ fieldX w ++ fieldY w ++ fieldN w : BitVec (4 + 4 + 4 + 4))
      &&& (BitVec.allOnes 4 ++ 0#4 ++ 0#4 ++ BitVec.allOnes 4 : BitVec (4 + 4 + 4 + 4)))
    = (fieldG w ++ 0#4 ++ 0#4 ++ fieldN w : BitVec (4 + 4 + 4 + 4))
  simp only [BitVec.and_append, BitVec.and_allOnes, BitVec.and_zero]

theorem and_maskF0FF (w : Word) : w &&& 0xF0FF#16 = encodeFX (fieldG w) 0#4 (fieldNN w) := by
  conv => lhs; rw [← encodeFX_fields w]
  show ((fieldG w ++ fieldX w ++ fieldNN w : BitVec (4 + 4 + 8))
      &&& (BitVec.allOnes 4 ++ 0#4 ++ BitVec.allOnes 8 : BitVec (4 + 4 + 8)))
    = (fieldG w ++ 0#4 ++ fieldNN w : BitVec (4 + 4 + 8))
  simp only [BitVec.and_append, BitVec.and_allOnes, BitVec.and_zero]

theorem and_maskFFFF (w : Word) : w &&& 0xFFFF#16 = w := BitVec.and_allOnes

end Sys2Proof
end

