-- ==== Sys2Proof/Laws/Framebuffer.lean ====
section
/-! SUPPORT. What the display primitives do, cell by cell, and when a row collides. -/

namespace Sys2Proof.Machine

@[simp] theorem Framebuffer.cell_blank (r c : Nat) : Framebuffer.blank.cell r c = false := by
  unfold Framebuffer.cell Framebuffer.blank
  split <;> simp

theorem Framebuffer.cell_outside (d : Framebuffer) {r c : Nat} (h : ¬ (r < 32 ∧ c < 64)) :
    d.cell r c = false := by
  simp only [Framebuffer.cell, h, dif_neg, not_false_iff]

/-- Two framebuffers with the same cells are the same. -/
theorem Framebuffer.ext_cell {d e : Framebuffer} (h : ∀ r c, d.cell r c = e.cell r c) : d = e := by
  refine Vector.ext (fun r hr => Vector.ext (fun c hc => ?_))
  have := h r c
  simpa [Framebuffer.cell, hr, hc] using this

theorem Framebuffer.cell_toggle (d : Framebuffer) {r c : Nat} (hr : r < 32) (hc : c < 64) (p q : Nat) :
    (d.toggle r c).cell p q = (d.cell p q ^^ (decide (p = r) && decide (q = c))) := by
  by_cases hpq : p < 32 ∧ q < 64
  · obtain ⟨hp, hq⟩ := hpq
    simp only [Framebuffer.toggle, Framebuffer.cell, hr, hc, hp, hq, and_self, dif_pos]
    by_cases h1 : r = p
    · subst h1
      by_cases h2 : c = q
      · subst h2; simp
      · simp [h2, Ne.symm h2]
    · simp [h1, Ne.symm h1]
  · rw [Framebuffer.cell_outside _ hpq, Framebuffer.cell_outside _ hpq]
    by_cases h : p = r ∧ q = c
    · exact absurd ⟨h.1 ▸ hr, h.2 ▸ hc⟩ hpq
    · by_cases h1 : p = r
      · have h2 : q ≠ c := fun h2 => h ⟨h1, h2⟩
        simp [h1, h2]
      · simp [h1]

/-- The first `n` rounds of the loop of `DrawRow` (R161). -/
abbrev drawBits (d : Framebuffer) (r c0 : Nat) (b : Byte) (n : Nat) : Framebuffer × Bool :=
  (List.range n).foldl (drawBit r c0 b) (d, false)

theorem drawBits_succ (d : Framebuffer) (r c0 : Nat) (b : Byte) (n : Nat) :
    drawBits d r c0 b (n + 1) = drawBit r c0 b (drawBits d r c0 b n) n := by
  simp [drawBits, List.range_succ]

/-- Whether sprite bit `j` of a row at column `c0` reaches the display and is set. -/
abbrev bitLands (c0 : Nat) (b : Byte) (j : Nat) : Prop := c0 + j < 64 ∧ spriteBit b j = true

theorem cell_drawBits (d : Framebuffer) {r : Nat} (hr : r < 32) (c0 : Nat) (b : Byte) (n p q : Nat) :
    (drawBits d r c0 b n).1.cell p q
      = (d.cell p q ^^ decide (p = r ∧ c0 ≤ q ∧ q - c0 < n ∧ bitLands c0 b (q - c0))) := by
  induction n with
  | zero => simp [drawBits]
  | succ n ih =>
    rw [drawBits_succ, drawBit]
    by_cases hb : c0 + n < dispW ∧ spriteBit b n = true
    · have hn : c0 + n < 64 := hb.1
      rw [if_pos hb, Framebuffer.cell_toggle _ hr hn, ih]
      by_cases hpq : p = r ∧ q = c0 + n
      · obtain ⟨rfl, rfl⟩ := hpq
        simp [hn, hb.2]
      · have : ¬ (p = r) ∨ ¬ (q = c0 + n) := by tauto
        rw [show (decide (p = r) && decide (q = c0 + n)) = false by
          rcases this with h | h <;> simp [h], Bool.xor_false]
        congr 1
        by_cases hp : p = r
        · have hq : q ≠ c0 + n := fun h => hpq ⟨hp, h⟩
          simp only [decide_eq_decide]
          constructor
          · rintro ⟨h1, h2, h3, h4⟩; exact ⟨h1, h2, by omega, h4⟩
          · rintro ⟨h1, h2, h3, h4⟩; exact ⟨h1, h2, by omega, h4⟩
        · simp [hp]
    · rw [if_neg hb, ih]
      congr 1
      simp only [decide_eq_decide]
      constructor
      · rintro ⟨h1, h2, h3, h4⟩; exact ⟨h1, h2, by omega, h4⟩
      · rintro ⟨h1, h2, h3, h4⟩
        refine ⟨h1, h2, ?_, h4⟩
        by_contra hge
        have : q - c0 = n := by omega
        rw [this] at h4
        exact hb h4

theorem hit_drawBits (d : Framebuffer) {r : Nat} (hr : r < 32) (c0 : Nat) (b : Byte) (n : Nat) :
    (drawBits d r c0 b n).2 = true ↔ ∃ j, j < n ∧ bitLands c0 b j ∧ d.cell r (c0 + j) = true := by
  induction n with
  | zero => simp [drawBits]
  | succ n ih =>
    rw [drawBits_succ, drawBit]
    have old : (drawBits d r c0 b n).1.cell r (c0 + n) = d.cell r (c0 + n) := by
      rw [cell_drawBits d hr]; simp
    have split_last : (∃ j, j < n + 1 ∧ bitLands c0 b j ∧ d.cell r (c0 + j) = true)
        ↔ (∃ j, j < n ∧ bitLands c0 b j ∧ d.cell r (c0 + j) = true)
          ∨ (bitLands c0 b n ∧ d.cell r (c0 + n) = true) := by
      constructor
      · rintro ⟨j, hj, h⟩
        rcases Nat.lt_succ_iff_lt_or_eq.mp hj with hj | rfl
        · exact .inl ⟨j, hj, h⟩
        · exact .inr h
      · rintro (⟨j, hj, h⟩ | h)
        · exact ⟨j, by omega, h⟩
        · exact ⟨n, by omega, h⟩
    rw [split_last]
    by_cases hb : c0 + n < dispW ∧ spriteBit b n = true
    · rw [if_pos hb]
      have hb' : bitLands c0 b n := hb
      rw [Bool.or_eq_true, ih, old]
      exact or_congr_right (iff_and_self.mpr (fun _ => hb'))
    · rw [if_neg hb, ih]
      have hb' : ¬ bitLands c0 b n := hb
      simp [hb']

/-- `DrawRow`, cell by cell (R161). -/
theorem cell_drawRow (d : Framebuffer) (r c0 : Nat) (b : Byte) (p q : Nat) :
    (drawRow d r c0 b).1.cell p q
      = (d.cell p q ^^ decide (p = r ∧ r < 32 ∧ c0 ≤ q ∧ q - c0 < 8 ∧ bitLands c0 b (q - c0))) := by
  unfold drawRow
  by_cases hr : r < dispH
  · rw [if_pos hr]
    have hr' : r < 32 := hr
    rw [show (List.range 8).foldl (drawBit r c0 b) (d, false) = drawBits d r c0 b 8 from rfl,
      cell_drawBits d hr']
    simp [hr']
  · rw [if_neg hr]
    have hr' : ¬ r < 32 := hr
    simp [hr']

/-- When `DrawRow` reports a collision: a set cell under a set sprite bit (R161). -/
theorem hit_drawRow (d : Framebuffer) (r c0 : Nat) (b : Byte) :
    (drawRow d r c0 b).2 = true ↔ ∃ j, j < 8 ∧ bitLands c0 b j ∧ d.cell r (c0 + j) = true := by
  unfold drawRow
  by_cases hr : r < dispH
  · rw [if_pos hr]
    exact hit_drawBits d hr c0 b 8
  · rw [if_neg hr]
    have hr' : ¬ r < 32 := hr
    simp only [Bool.false_eq_true, false_iff]
    rintro ⟨j, -, -, hc⟩
    rw [Framebuffer.cell_outside d (by omega)] at hc
    exact absurd hc (by simp)

/-- Whether the sprite with these rows at row `r0` and column `c0` has a set bit on cell (p, q) of the display. -/
abbrev spriteOn (r0 c0 : Nat) (rows : List Byte) (p q : Nat) : Prop :=
  p < 32 ∧ r0 ≤ p ∧ p - r0 < rows.length ∧ c0 ≤ q ∧ q - c0 < 8 ∧ bitLands c0 (rows.getD (p - r0) 0) (q - c0)

theorem spriteOn_cons (r0 c0 : Nat) (b : Byte) (bs : List Byte) (p q : Nat) :
    spriteOn r0 c0 (b :: bs) p q ↔
      (p = r0 ∧ r0 < 32 ∧ c0 ≤ q ∧ q - c0 < 8 ∧ bitLands c0 b (q - c0)) ∨ spriteOn (r0 + 1) c0 bs p q := by
  by_cases hp : p = r0
  · subst hp
    simp only [spriteOn, List.length_cons, Nat.sub_self, List.getD_cons_zero, true_and]
    constructor
    · rintro ⟨h1, -, -, h⟩; exact .inl ⟨h1, h⟩
    · rintro (⟨h1, h⟩ | ⟨-, h, -⟩)
      · exact ⟨h1, le_refl _, by omega, h⟩
      · omega
  · simp only [hp, false_and, false_or, spriteOn, List.length_cons]
    by_cases hlt : r0 + 1 ≤ p
    · have hs : p - r0 = (p - (r0 + 1)) + 1 := by omega
      rw [hs, List.getD_cons_succ]
      constructor
      · rintro ⟨h1, h2, h3, h⟩; exact ⟨h1, hlt, by omega, h⟩
      · rintro ⟨h1, h2, h3, h⟩; exact ⟨h1, by omega, by omega, h⟩
    · constructor
      · rintro ⟨_, h2, _⟩; omega
      · rintro ⟨_, h2, _⟩; omega

/-- The rows of a sprite, cell by cell (R164). -/
theorem cell_drawRows (d : Framebuffer) (r0 c0 : Nat) (rows : List Byte) (p q : Nat) :
    (drawRows d r0 c0 rows).1.cell p q = (d.cell p q ^^ decide (spriteOn r0 c0 rows p q)) := by
  induction rows generalizing d r0 with
  | nil => simp [drawRows, spriteOn]
  | cons b bs ih =>
    simp only [drawRows, ih, cell_drawRow, Bool.xor_assoc]
    congr 1
    rw [show decide (spriteOn r0 c0 (b :: bs) p q)
        = decide ((p = r0 ∧ r0 < 32 ∧ c0 ≤ q ∧ q - c0 < 8 ∧ bitLands c0 b (q - c0)) ∨ spriteOn (r0 + 1) c0 bs p q) from
      decide_eq_decide.mpr (spriteOn_cons r0 c0 b bs p q)]
    by_cases hp : p = r0
    · have : ¬ spriteOn (r0 + 1) c0 bs p q := by rintro ⟨_, h, _⟩; omega
      simp [this]
    · simp [hp]

/-- When a sprite collides: some set cell is under a set sprite bit (R165). -/
theorem hit_drawRows (d : Framebuffer) (r0 c0 : Nat) (rows : List Byte) :
    (drawRows d r0 c0 rows).2 = true ↔ ∃ p q, spriteOn r0 c0 rows p q ∧ d.cell p q = true := by
  induction rows generalizing d r0 with
  | nil => simp [drawRows, spriteOn]
  | cons b bs ih =>
    simp only [drawRows, Bool.or_eq_true, ih, hit_drawRow]
    have under : ∀ p q, spriteOn (r0 + 1) c0 bs p q →
        (drawRow d r0 c0 b).1.cell p q = d.cell p q := by
      rintro p q ⟨_, h, _⟩
      have hp : p ≠ r0 := by omega
      rw [cell_drawRow]; simp [hp]
    constructor
    · rintro (⟨j, hj, hl, hc⟩ | ⟨p, q, hs, hc⟩)
      · have hr : r0 < 32 := by
          by_contra h
          rw [Framebuffer.cell_outside d (by omega)] at hc
          exact absurd hc (by simp)
        refine ⟨r0, c0 + j, (spriteOn_cons ..).mpr (.inl ⟨rfl, hr, by omega, by omega, ?_⟩), hc⟩
        simpa using hl
      · exact ⟨p, q, (spriteOn_cons ..).mpr (.inr hs), (under p q hs) ▸ hc⟩
    · rintro ⟨p, q, hs, hc⟩
      rcases (spriteOn_cons ..).mp hs with ⟨rfl, hr, h1, h2, h3⟩ | hs
      · refine .inl ⟨q - c0, h2, h3, ?_⟩
        rwa [show c0 + (q - c0) = q by omega]
      · exact .inr ⟨p, q, hs, (under p q hs).symm ▸ hc⟩

end Sys2Proof.Machine
end

