-- ==== Sys2Proof/Laws/Memory.lean ====
section
/-! SUPPORT. The laws of memory: a read after a write, every other address unchanged, and every operation keeps the canonical form. -/

namespace Sys2Proof.Machine

/-- An address that no cell names. -/
abbrev Memory.Lacks (m : Memory) (a : Nat) : Prop := ∀ c ∈ m, c.1 ≠ a

theorem Memory.get_of_lacks {m : Memory} {a : Nat} (h : m.Lacks a) : m.get a = Memory.unlisted a := by
  induction m with
  | nil => rfl
  | cons c m ih =>
    obtain ⟨b, v⟩ := c
    have hb : b ≠ a := h (b, v) (by simp)
    simp only [Memory.get, hb, if_false]
    exact ih (fun c hc => h c (by simp [hc]))

theorem Memory.dropCell_lacks (m : Memory) (a : Nat) : (m.dropCell a).Lacks a := by
  intro c hc
  simpa using (List.mem_filter.mp hc).2

theorem Memory.get_dropCell_ne (m : Memory) {a q : Nat} (h : q ≠ a) : (m.dropCell a).get q = m.get q := by
  induction m with
  | nil => rfl
  | cons c m ih =>
    obtain ⟨b, v⟩ := c
    simp only [Memory.dropCell] at ih ⊢
    by_cases hb : b = a
    · subst hb
      simp [Memory.get, Ne.symm h, ih]
    · simp [hb, Memory.get, ih]

theorem Memory.get_insertCell {m : Memory} {a : Nat} (v : Byte) (h : m.Lacks a) (q : Nat) :
    (Memory.insertCell a v m).get q = if q = a then v else m.get q := by
  induction m with
  | nil => simp [Memory.insertCell, Memory.get, eq_comm]
  | cons c m ih =>
    obtain ⟨b, w⟩ := c
    have hb : b ≠ a := h (b, w) (by simp)
    have ih := ih (fun c hc => h c (by simp [hc]))
    simp only [Memory.insertCell]
    split
    · simp [Memory.get, eq_comm]
    · simp only [Memory.get, ih]
      by_cases hq : b = q
      · subst hq; simp [hb]
      · simp [hq]

/-- What memory holds after a write. -/
theorem Memory.get_put (m : Memory) (a q : Nat) (v : Byte) :
    (m.put a v).get q = if q = a then v else m.get q := by
  unfold Memory.put
  by_cases hq : q = a
  · subst hq
    split
    · rename_i hv
      rw [Memory.get_of_lacks (m.dropCell_lacks q), hv]; simp
    · rw [Memory.get_insertCell v (m.dropCell_lacks q)]; simp
  · split
    · rw [Memory.get_dropCell_ne m hq]
    · rw [Memory.get_insertCell v (m.dropCell_lacks a), Memory.get_dropCell_ne m hq, if_neg hq]

@[simp] theorem Memory.get_put_same (m : Memory) (a : Nat) (v : Byte) : (m.put a v).get a = v := by
  simp [Memory.get_put]

@[simp] theorem Memory.get_put_ne (m : Memory) {a q : Nat} (v : Byte) (h : q ≠ a) :
    (m.put a v).get q = m.get q := by
  simp [Memory.get_put, h]

/-- What memory holds after a run of writes. -/
theorem Memory.get_putList (m : Memory) (a q : Nat) (vs : List Byte) :
    (m.putList a vs).get q = if a ≤ q ∧ q < a + vs.length then vs.getD (q - a) 0 else m.get q := by
  induction vs generalizing m a with
  | nil =>
    simp [Memory.putList]
  | cons v vs ih =>
    simp only [Memory.putList, ih, List.length_cons, Memory.get_put]
    by_cases hq : q = a
    · subst hq; simp
    · by_cases hr : a + 1 ≤ q ∧ q < a + 1 + vs.length
      · have h1 : q - a = (q - (a + 1)) + 1 := by omega
        have h2 : a ≤ q ∧ q < a + (vs.length + 1) := by omega
        simp only [hr, h2, and_self, if_true, h1, List.getD_cons_succ]
      · have h2 : ¬ (a ≤ q ∧ q < a + (vs.length + 1)) := by omega
        simp only [hr, h2, if_false, hq]

theorem Memory.length_getList (m : Memory) (a n : Nat) : (m.getList a n).length = n := by
  induction n generalizing a with
  | zero => rfl
  | succ n ih => simp [Memory.getList, ih]

/-- What a run of reads answers. -/
theorem Memory.getD_getList (m : Memory) (a n k : Nat) (h : k < n) :
    (m.getList a n).getD k 0 = m.get (a + k) := by
  induction n generalizing a k with
  | zero => omega
  | succ n ih =>
    cases k with
    | zero => rfl
    | succ k =>
      simp only [Memory.getList, List.getD_cons_succ]
      rw [ih (a + 1) k (by omega)]
      congr 1; omega

/-- Writing what unlisted addresses read as into an empty list of cells lists nothing. -/
theorem Memory.putList_unlisted (a : Nat) (vs : List Byte)
    (h : ∀ k, k < vs.length → vs.getD k 0 = Memory.unlisted (a + k)) : Memory.putList [] a vs = [] := by
  induction vs generalizing a with
  | nil => rfl
  | cons v vs ih =>
    have hv : v = Memory.unlisted a := h 0 (Nat.succ_pos _)
    have hp : Memory.put [] a v = [] := if_pos hv
    rw [Memory.putList, hp]
    refine ih (a + 1) (fun k hk => ?_)
    have hk' := h (k + 1) (Nat.succ_lt_succ hk)
    rwa [List.getD_cons_succ, show a + (k + 1) = a + 1 + k by omega] at hk'

/-! ### The canonical form -/

theorem Memory.wf_cons (c : Host.Cell) (m : Memory) :
    Memory.wf (c :: m) = true ↔ Memory.cellOk c = true ∧ (∀ d ∈ m, c.1 < d.1) ∧ m.wf = true := by
  simp [Memory.wf, and_assoc]

theorem Memory.wf_dropCell {m : Memory} (a : Nat) (h : m.wf = true) : (m.dropCell a).wf = true := by
  induction m with
  | nil => rfl
  | cons c m ih =>
    obtain ⟨hc, hlt, hm⟩ := (Memory.wf_cons c m).mp h
    simp only [Memory.dropCell, List.filter_cons] at ih ⊢
    split
    · refine (Memory.wf_cons _ _).mpr ⟨hc, fun d hd => hlt d (List.mem_of_mem_filter hd), ih hm⟩
    · exact ih hm

theorem Memory.mem_insertCell {a : Nat} {v : Byte} {m : Memory} {c : Host.Cell}
    (h : c ∈ Memory.insertCell a v m) : c = (a, v) ∨ c ∈ m := by
  induction m with
  | nil => simpa [Memory.insertCell] using h
  | cons d m ih =>
    obtain ⟨b, w⟩ := d
    simp only [Memory.insertCell] at h
    split at h
    · simpa using h
    · rcases List.mem_cons.mp h with h | h
      · exact .inr (by simp [h])
      · exact (ih h).imp_right (fun h => by simp [h])

theorem Memory.wf_insertCell {m : Memory} {a : Nat} {v : Byte} (h : m.wf = true) (hl : m.Lacks a)
    (hc : Memory.cellOk (a, v) = true) : (Memory.insertCell a v m).wf = true := by
  induction m with
  | nil => simp [Memory.insertCell, Memory.wf, hc]
  | cons d m ih =>
    obtain ⟨b, w⟩ := d
    have hne : b ≠ a := hl (b, w) (by simp)
    obtain ⟨hd, hlt, hm⟩ := (Memory.wf_cons _ _).mp h
    simp only [Memory.insertCell]
    split
    · rename_i hab
      refine (Memory.wf_cons _ _).mpr ⟨hc, fun e he => ?_, h⟩
      rcases List.mem_cons.mp he with rfl | he
      · exact hab
      · exact Nat.lt_trans hab (hlt e he)
    · refine (Memory.wf_cons _ _).mpr ⟨hd, fun e he => ?_, ih hm (fun c hc => hl c (by simp [hc]))⟩
      rcases Memory.mem_insertCell he with rfl | he
      · simp only; omega
      · exact hlt e he

/-- A write inside the address space keeps the canonical form. -/
theorem Memory.wf_put {m : Memory} {a : Nat} (v : Byte) (h : m.wf = true) (ha : a ≤ addrMax) :
    (m.put a v).wf = true := by
  unfold Memory.put
  split
  · exact Memory.wf_dropCell a h
  · rename_i hv
    exact Memory.wf_insertCell (Memory.wf_dropCell a h) (m.dropCell_lacks a)
      (by simp [Memory.cellOk, ha, hv])

/-- A run of writes inside the address space keeps the canonical form. -/
theorem Memory.wf_putList {m : Memory} {a : Nat} (vs : List Byte) (h : m.wf = true)
    (ha : a + vs.length ≤ addrMax + 1) : (m.putList a vs).wf = true := by
  induction vs generalizing m a with
  | nil => exact h
  | cons v vs ih =>
    simp only [List.length_cons] at ha
    exact ih (Memory.wf_put v h (by omega)) (by omega)

/-- An address below every cell reads as unlisted. -/
theorem Memory.get_below {m : Memory} {a : Nat} (h : ∀ d ∈ m, a < d.1) : m.get a = Memory.unlisted a :=
  Memory.get_of_lacks (fun c hc => Nat.ne_of_gt (h c hc))

/-- The form is canonical: two memories in it that read the same everywhere are the same data. -/
theorem Memory.eq_of_get {m n : Memory} (hm : m.wf = true) (hn : n.wf = true)
    (h : ∀ a, m.get a = n.get a) : m = n := by
  induction m generalizing n with
  | nil =>
    cases n with
    | nil => rfl
    | cons d n =>
      have hd := ((Memory.wf_cons d n).mp hn).1
      have := h d.1
      simp only [Memory.get, if_true] at this
      simp [Memory.cellOk, ← this] at hd
  | cons c m ih =>
    obtain ⟨hc, hclt, hm'⟩ := (Memory.wf_cons c m).mp hm
    cases n with
    | nil =>
      have := h c.1
      simp only [Memory.get, if_true] at this
      simp [Memory.cellOk, this] at hc
    | cons d n =>
      obtain ⟨hd, hdlt, hn'⟩ := (Memory.wf_cons d n).mp hn
      have key : c.1 = d.1 := by
        rcases Nat.lt_trichotomy c.1 d.1 with hlt | heq | hgt
        · exfalso
          have hall : ∀ e ∈ d :: n, c.1 < e.1 := by
            intro e he
            rcases List.mem_cons.mp he with rfl | he
            · exact hlt
            · exact Nat.lt_trans hlt (hdlt e he)
          have e1 := h c.1
          rw [Memory.get_below hall] at e1
          simp only [Memory.get, if_true] at e1
          simp [Memory.cellOk, e1] at hc
        · exact heq
        · exfalso
          have hall : ∀ e ∈ c :: m, d.1 < e.1 := by
            intro e he
            rcases List.mem_cons.mp he with rfl | he
            · exact hgt
            · exact Nat.lt_trans hgt (hclt e he)
          have e1 := h d.1
          rw [Memory.get_below hall] at e1
          simp only [Memory.get, if_true] at e1
          simp [Memory.cellOk, ← e1] at hd
      have val : c.2 = d.2 := by
        have e1 := h c.1
        simpa [Memory.get, key] using e1
      have hcd : c = d := Prod.ext key val
      subst hcd
      congr 1
      refine ih hm' hn' (fun a => ?_)
      by_cases ha : c.1 = a
      · subst ha
        rw [Memory.get_below hclt, Memory.get_below hdlt]
      · have e1 := h a
        simpa [Memory.get, ha] using e1

end Sys2Proof.Machine
end

