-- ==== Sys2Proof/Laws/State.lean ====
section
/-! SUPPORT. One lemma per field per update of State, true by rfl, and the register read over every update. -/

namespace Sys2Proof.Machine

variable (s : State)

/-! ### setV -/

@[simp] theorem State.setV_v (r : RegNum) (b : Byte) : (s.setV r b).v = s.v.set r.toNat b := rfl
@[simp] theorem State.setV_i (r : RegNum) (b : Byte) : (s.setV r b).i = s.i := rfl
@[simp] theorem State.setV_pc (r : RegNum) (b : Byte) : (s.setV r b).pc = s.pc := rfl
@[simp] theorem State.setV_sp (r : RegNum) (b : Byte) : (s.setV r b).sp = s.sp := rfl
@[simp] theorem State.setV_dt (r : RegNum) (b : Byte) : (s.setV r b).dt = s.dt := rfl
@[simp] theorem State.setV_st (r : RegNum) (b : Byte) : (s.setV r b).st = s.st := rfl
@[simp] theorem State.setV_mem (r : RegNum) (b : Byte) : (s.setV r b).mem = s.mem := rfl
@[simp] theorem State.setV_disp (r : RegNum) (b : Byte) : (s.setV r b).disp = s.disp := rfl
@[simp] theorem State.setV_keys (r : RegNum) (b : Byte) : (s.setV r b).keys = s.keys := rfl
@[simp] theorem State.setV_estate (r : RegNum) (b : Byte) : (s.setV r b).estate = s.estate := rfl
@[simp] theorem State.setV_waitX (r : RegNum) (b : Byte) : (s.setV r b).waitX = s.waitX := rfl
@[simp] theorem State.setV_opcode (r : RegNum) (b : Byte) : (s.setV r b).opcode = s.opcode := rfl
@[simp] theorem State.setV_errKind (r : RegNum) (b : Byte) : (s.setV r b).errKind = s.errKind := rfl
@[simp] theorem State.setV_errOpcode (r : RegNum) (b : Byte) : (s.setV r b).errOpcode = s.errOpcode := rfl
@[simp] theorem State.setV_errAddr (r : RegNum) (b : Byte) : (s.setV r b).errAddr = s.errAddr := rfl
@[simp] theorem State.setV_draws (r : RegNum) (b : Byte) : (s.setV r b).draws = s.draws := rfl
@[simp] theorem State.setV_font (r : RegNum) (b : Byte) : (s.setV r b).font = s.font := rfl
@[simp] theorem State.setV_inbox (r : RegNum) (b : Byte) : (s.setV r b).inbox = s.inbox := rfl
@[simp] theorem State.setV_isDown (r : RegNum) (b : Byte) (q : Byte) : (s.setV r b).isDown q = s.isDown q := rfl

/-! ### setVFlag -/

@[simp] theorem State.setVFlag_v (x : RegNum) (b f : Byte) : (s.setVFlag x b f).v = (s.v.set x.toNat b).set 15 f := rfl
@[simp] theorem State.setVFlag_i (x : RegNum) (b f : Byte) : (s.setVFlag x b f).i = s.i := rfl
@[simp] theorem State.setVFlag_pc (x : RegNum) (b f : Byte) : (s.setVFlag x b f).pc = s.pc := rfl
@[simp] theorem State.setVFlag_sp (x : RegNum) (b f : Byte) : (s.setVFlag x b f).sp = s.sp := rfl
@[simp] theorem State.setVFlag_dt (x : RegNum) (b f : Byte) : (s.setVFlag x b f).dt = s.dt := rfl
@[simp] theorem State.setVFlag_st (x : RegNum) (b f : Byte) : (s.setVFlag x b f).st = s.st := rfl
@[simp] theorem State.setVFlag_mem (x : RegNum) (b f : Byte) : (s.setVFlag x b f).mem = s.mem := rfl
@[simp] theorem State.setVFlag_disp (x : RegNum) (b f : Byte) : (s.setVFlag x b f).disp = s.disp := rfl
@[simp] theorem State.setVFlag_keys (x : RegNum) (b f : Byte) : (s.setVFlag x b f).keys = s.keys := rfl
@[simp] theorem State.setVFlag_estate (x : RegNum) (b f : Byte) : (s.setVFlag x b f).estate = s.estate := rfl
@[simp] theorem State.setVFlag_waitX (x : RegNum) (b f : Byte) : (s.setVFlag x b f).waitX = s.waitX := rfl
@[simp] theorem State.setVFlag_opcode (x : RegNum) (b f : Byte) : (s.setVFlag x b f).opcode = s.opcode := rfl
@[simp] theorem State.setVFlag_errKind (x : RegNum) (b f : Byte) : (s.setVFlag x b f).errKind = s.errKind := rfl
@[simp] theorem State.setVFlag_errOpcode (x : RegNum) (b f : Byte) : (s.setVFlag x b f).errOpcode = s.errOpcode := rfl
@[simp] theorem State.setVFlag_errAddr (x : RegNum) (b f : Byte) : (s.setVFlag x b f).errAddr = s.errAddr := rfl
@[simp] theorem State.setVFlag_draws (x : RegNum) (b f : Byte) : (s.setVFlag x b f).draws = s.draws := rfl
@[simp] theorem State.setVFlag_font (x : RegNum) (b f : Byte) : (s.setVFlag x b f).font = s.font := rfl
@[simp] theorem State.setVFlag_inbox (x : RegNum) (b f : Byte) : (s.setVFlag x b f).inbox = s.inbox := rfl
@[simp] theorem State.setVFlag_isDown (x : RegNum) (b f : Byte) (q : Byte) : (s.setVFlag x b f).isDown q = s.isDown q := rfl

/-! ### setRegs -/

@[simp] theorem State.setRegs_v (w : Vector Byte 16) : (s.setRegs w).v = w := rfl
@[simp] theorem State.setRegs_i (w : Vector Byte 16) : (s.setRegs w).i = s.i := rfl
@[simp] theorem State.setRegs_pc (w : Vector Byte 16) : (s.setRegs w).pc = s.pc := rfl
@[simp] theorem State.setRegs_sp (w : Vector Byte 16) : (s.setRegs w).sp = s.sp := rfl
@[simp] theorem State.setRegs_dt (w : Vector Byte 16) : (s.setRegs w).dt = s.dt := rfl
@[simp] theorem State.setRegs_st (w : Vector Byte 16) : (s.setRegs w).st = s.st := rfl
@[simp] theorem State.setRegs_mem (w : Vector Byte 16) : (s.setRegs w).mem = s.mem := rfl
@[simp] theorem State.setRegs_disp (w : Vector Byte 16) : (s.setRegs w).disp = s.disp := rfl
@[simp] theorem State.setRegs_keys (w : Vector Byte 16) : (s.setRegs w).keys = s.keys := rfl
@[simp] theorem State.setRegs_estate (w : Vector Byte 16) : (s.setRegs w).estate = s.estate := rfl
@[simp] theorem State.setRegs_waitX (w : Vector Byte 16) : (s.setRegs w).waitX = s.waitX := rfl
@[simp] theorem State.setRegs_opcode (w : Vector Byte 16) : (s.setRegs w).opcode = s.opcode := rfl
@[simp] theorem State.setRegs_errKind (w : Vector Byte 16) : (s.setRegs w).errKind = s.errKind := rfl
@[simp] theorem State.setRegs_errOpcode (w : Vector Byte 16) : (s.setRegs w).errOpcode = s.errOpcode := rfl
@[simp] theorem State.setRegs_errAddr (w : Vector Byte 16) : (s.setRegs w).errAddr = s.errAddr := rfl
@[simp] theorem State.setRegs_draws (w : Vector Byte 16) : (s.setRegs w).draws = s.draws := rfl
@[simp] theorem State.setRegs_font (w : Vector Byte 16) : (s.setRegs w).font = s.font := rfl
@[simp] theorem State.setRegs_inbox (w : Vector Byte 16) : (s.setRegs w).inbox = s.inbox := rfl
@[simp] theorem State.setRegs_isDown (w : Vector Byte 16) (q : Byte) : (s.setRegs w).isDown q = s.isDown q := rfl

/-! ### setPc -/

@[simp] theorem State.setPc_v (a : Nat) : (s.setPc a).v = s.v := rfl
@[simp] theorem State.setPc_i (a : Nat) : (s.setPc a).i = s.i := rfl
@[simp] theorem State.setPc_pc (a : Nat) : (s.setPc a).pc = BitVec.ofNat 12 a := rfl
@[simp] theorem State.setPc_sp (a : Nat) : (s.setPc a).sp = s.sp := rfl
@[simp] theorem State.setPc_dt (a : Nat) : (s.setPc a).dt = s.dt := rfl
@[simp] theorem State.setPc_st (a : Nat) : (s.setPc a).st = s.st := rfl
@[simp] theorem State.setPc_mem (a : Nat) : (s.setPc a).mem = s.mem := rfl
@[simp] theorem State.setPc_disp (a : Nat) : (s.setPc a).disp = s.disp := rfl
@[simp] theorem State.setPc_keys (a : Nat) : (s.setPc a).keys = s.keys := rfl
@[simp] theorem State.setPc_estate (a : Nat) : (s.setPc a).estate = s.estate := rfl
@[simp] theorem State.setPc_waitX (a : Nat) : (s.setPc a).waitX = s.waitX := rfl
@[simp] theorem State.setPc_opcode (a : Nat) : (s.setPc a).opcode = s.opcode := rfl
@[simp] theorem State.setPc_errKind (a : Nat) : (s.setPc a).errKind = s.errKind := rfl
@[simp] theorem State.setPc_errOpcode (a : Nat) : (s.setPc a).errOpcode = s.errOpcode := rfl
@[simp] theorem State.setPc_errAddr (a : Nat) : (s.setPc a).errAddr = s.errAddr := rfl
@[simp] theorem State.setPc_draws (a : Nat) : (s.setPc a).draws = s.draws := rfl
@[simp] theorem State.setPc_font (a : Nat) : (s.setPc a).font = s.font := rfl
@[simp] theorem State.setPc_inbox (a : Nat) : (s.setPc a).inbox = s.inbox := rfl
@[simp] theorem State.setPc_getV (a : Nat) (q : RegNum) : (s.setPc a).getV q = s.getV q := rfl
@[simp] theorem State.setPc_isDown (a : Nat) (q : Byte) : (s.setPc a).isDown q = s.isDown q := rfl

/-! ### setI -/

@[simp] theorem State.setI_v (a : Nat) : (s.setI a).v = s.v := rfl
@[simp] theorem State.setI_i (a : Nat) : (s.setI a).i = BitVec.ofNat 16 a := rfl
@[simp] theorem State.setI_pc (a : Nat) : (s.setI a).pc = s.pc := rfl
@[simp] theorem State.setI_sp (a : Nat) : (s.setI a).sp = s.sp := rfl
@[simp] theorem State.setI_dt (a : Nat) : (s.setI a).dt = s.dt := rfl
@[simp] theorem State.setI_st (a : Nat) : (s.setI a).st = s.st := rfl
@[simp] theorem State.setI_mem (a : Nat) : (s.setI a).mem = s.mem := rfl
@[simp] theorem State.setI_disp (a : Nat) : (s.setI a).disp = s.disp := rfl
@[simp] theorem State.setI_keys (a : Nat) : (s.setI a).keys = s.keys := rfl
@[simp] theorem State.setI_estate (a : Nat) : (s.setI a).estate = s.estate := rfl
@[simp] theorem State.setI_waitX (a : Nat) : (s.setI a).waitX = s.waitX := rfl
@[simp] theorem State.setI_opcode (a : Nat) : (s.setI a).opcode = s.opcode := rfl
@[simp] theorem State.setI_errKind (a : Nat) : (s.setI a).errKind = s.errKind := rfl
@[simp] theorem State.setI_errOpcode (a : Nat) : (s.setI a).errOpcode = s.errOpcode := rfl
@[simp] theorem State.setI_errAddr (a : Nat) : (s.setI a).errAddr = s.errAddr := rfl
@[simp] theorem State.setI_draws (a : Nat) : (s.setI a).draws = s.draws := rfl
@[simp] theorem State.setI_font (a : Nat) : (s.setI a).font = s.font := rfl
@[simp] theorem State.setI_inbox (a : Nat) : (s.setI a).inbox = s.inbox := rfl
@[simp] theorem State.setI_getV (a : Nat) (q : RegNum) : (s.setI a).getV q = s.getV q := rfl
@[simp] theorem State.setI_isDown (a : Nat) (q : Byte) : (s.setI a).isDown q = s.isDown q := rfl

/-! ### setSp -/

@[simp] theorem State.setSp_v (a : Nat) : (s.setSp a).v = s.v := rfl
@[simp] theorem State.setSp_i (a : Nat) : (s.setSp a).i = s.i := rfl
@[simp] theorem State.setSp_pc (a : Nat) : (s.setSp a).pc = s.pc := rfl
@[simp] theorem State.setSp_sp (a : Nat) : (s.setSp a).sp = BitVec.ofNat 8 a := rfl
@[simp] theorem State.setSp_dt (a : Nat) : (s.setSp a).dt = s.dt := rfl
@[simp] theorem State.setSp_st (a : Nat) : (s.setSp a).st = s.st := rfl
@[simp] theorem State.setSp_mem (a : Nat) : (s.setSp a).mem = s.mem := rfl
@[simp] theorem State.setSp_disp (a : Nat) : (s.setSp a).disp = s.disp := rfl
@[simp] theorem State.setSp_keys (a : Nat) : (s.setSp a).keys = s.keys := rfl
@[simp] theorem State.setSp_estate (a : Nat) : (s.setSp a).estate = s.estate := rfl
@[simp] theorem State.setSp_waitX (a : Nat) : (s.setSp a).waitX = s.waitX := rfl
@[simp] theorem State.setSp_opcode (a : Nat) : (s.setSp a).opcode = s.opcode := rfl
@[simp] theorem State.setSp_errKind (a : Nat) : (s.setSp a).errKind = s.errKind := rfl
@[simp] theorem State.setSp_errOpcode (a : Nat) : (s.setSp a).errOpcode = s.errOpcode := rfl
@[simp] theorem State.setSp_errAddr (a : Nat) : (s.setSp a).errAddr = s.errAddr := rfl
@[simp] theorem State.setSp_draws (a : Nat) : (s.setSp a).draws = s.draws := rfl
@[simp] theorem State.setSp_font (a : Nat) : (s.setSp a).font = s.font := rfl
@[simp] theorem State.setSp_inbox (a : Nat) : (s.setSp a).inbox = s.inbox := rfl
@[simp] theorem State.setSp_getV (a : Nat) (q : RegNum) : (s.setSp a).getV q = s.getV q := rfl
@[simp] theorem State.setSp_isDown (a : Nat) (q : Byte) : (s.setSp a).isDown q = s.isDown q := rfl

/-! ### setDt -/

@[simp] theorem State.setDt_v (b : Byte) : (s.setDt b).v = s.v := rfl
@[simp] theorem State.setDt_i (b : Byte) : (s.setDt b).i = s.i := rfl
@[simp] theorem State.setDt_pc (b : Byte) : (s.setDt b).pc = s.pc := rfl
@[simp] theorem State.setDt_sp (b : Byte) : (s.setDt b).sp = s.sp := rfl
@[simp] theorem State.setDt_dt (b : Byte) : (s.setDt b).dt = b := rfl
@[simp] theorem State.setDt_st (b : Byte) : (s.setDt b).st = s.st := rfl
@[simp] theorem State.setDt_mem (b : Byte) : (s.setDt b).mem = s.mem := rfl
@[simp] theorem State.setDt_disp (b : Byte) : (s.setDt b).disp = s.disp := rfl
@[simp] theorem State.setDt_keys (b : Byte) : (s.setDt b).keys = s.keys := rfl
@[simp] theorem State.setDt_estate (b : Byte) : (s.setDt b).estate = s.estate := rfl
@[simp] theorem State.setDt_waitX (b : Byte) : (s.setDt b).waitX = s.waitX := rfl
@[simp] theorem State.setDt_opcode (b : Byte) : (s.setDt b).opcode = s.opcode := rfl
@[simp] theorem State.setDt_errKind (b : Byte) : (s.setDt b).errKind = s.errKind := rfl
@[simp] theorem State.setDt_errOpcode (b : Byte) : (s.setDt b).errOpcode = s.errOpcode := rfl
@[simp] theorem State.setDt_errAddr (b : Byte) : (s.setDt b).errAddr = s.errAddr := rfl
@[simp] theorem State.setDt_draws (b : Byte) : (s.setDt b).draws = s.draws := rfl
@[simp] theorem State.setDt_font (b : Byte) : (s.setDt b).font = s.font := rfl
@[simp] theorem State.setDt_inbox (b : Byte) : (s.setDt b).inbox = s.inbox := rfl
@[simp] theorem State.setDt_getV (b : Byte) (q : RegNum) : (s.setDt b).getV q = s.getV q := rfl
@[simp] theorem State.setDt_isDown (b : Byte) (q : Byte) : (s.setDt b).isDown q = s.isDown q := rfl

/-! ### setSt -/

@[simp] theorem State.setSt_v (b : Byte) : (s.setSt b).v = s.v := rfl
@[simp] theorem State.setSt_i (b : Byte) : (s.setSt b).i = s.i := rfl
@[simp] theorem State.setSt_pc (b : Byte) : (s.setSt b).pc = s.pc := rfl
@[simp] theorem State.setSt_sp (b : Byte) : (s.setSt b).sp = s.sp := rfl
@[simp] theorem State.setSt_dt (b : Byte) : (s.setSt b).dt = s.dt := rfl
@[simp] theorem State.setSt_st (b : Byte) : (s.setSt b).st = b := rfl
@[simp] theorem State.setSt_mem (b : Byte) : (s.setSt b).mem = s.mem := rfl
@[simp] theorem State.setSt_disp (b : Byte) : (s.setSt b).disp = s.disp := rfl
@[simp] theorem State.setSt_keys (b : Byte) : (s.setSt b).keys = s.keys := rfl
@[simp] theorem State.setSt_estate (b : Byte) : (s.setSt b).estate = s.estate := rfl
@[simp] theorem State.setSt_waitX (b : Byte) : (s.setSt b).waitX = s.waitX := rfl
@[simp] theorem State.setSt_opcode (b : Byte) : (s.setSt b).opcode = s.opcode := rfl
@[simp] theorem State.setSt_errKind (b : Byte) : (s.setSt b).errKind = s.errKind := rfl
@[simp] theorem State.setSt_errOpcode (b : Byte) : (s.setSt b).errOpcode = s.errOpcode := rfl
@[simp] theorem State.setSt_errAddr (b : Byte) : (s.setSt b).errAddr = s.errAddr := rfl
@[simp] theorem State.setSt_draws (b : Byte) : (s.setSt b).draws = s.draws := rfl
@[simp] theorem State.setSt_font (b : Byte) : (s.setSt b).font = s.font := rfl
@[simp] theorem State.setSt_inbox (b : Byte) : (s.setSt b).inbox = s.inbox := rfl
@[simp] theorem State.setSt_getV (b : Byte) (q : RegNum) : (s.setSt b).getV q = s.getV q := rfl
@[simp] theorem State.setSt_isDown (b : Byte) (q : Byte) : (s.setSt b).isDown q = s.isDown q := rfl

/-! ### setMem -/

@[simp] theorem State.setMem_v (m : Memory) : (s.setMem m).v = s.v := rfl
@[simp] theorem State.setMem_i (m : Memory) : (s.setMem m).i = s.i := rfl
@[simp] theorem State.setMem_pc (m : Memory) : (s.setMem m).pc = s.pc := rfl
@[simp] theorem State.setMem_sp (m : Memory) : (s.setMem m).sp = s.sp := rfl
@[simp] theorem State.setMem_dt (m : Memory) : (s.setMem m).dt = s.dt := rfl
@[simp] theorem State.setMem_st (m : Memory) : (s.setMem m).st = s.st := rfl
@[simp] theorem State.setMem_mem (m : Memory) : (s.setMem m).mem = m := rfl
@[simp] theorem State.setMem_disp (m : Memory) : (s.setMem m).disp = s.disp := rfl
@[simp] theorem State.setMem_keys (m : Memory) : (s.setMem m).keys = s.keys := rfl
@[simp] theorem State.setMem_estate (m : Memory) : (s.setMem m).estate = s.estate := rfl
@[simp] theorem State.setMem_waitX (m : Memory) : (s.setMem m).waitX = s.waitX := rfl
@[simp] theorem State.setMem_opcode (m : Memory) : (s.setMem m).opcode = s.opcode := rfl
@[simp] theorem State.setMem_errKind (m : Memory) : (s.setMem m).errKind = s.errKind := rfl
@[simp] theorem State.setMem_errOpcode (m : Memory) : (s.setMem m).errOpcode = s.errOpcode := rfl
@[simp] theorem State.setMem_errAddr (m : Memory) : (s.setMem m).errAddr = s.errAddr := rfl
@[simp] theorem State.setMem_draws (m : Memory) : (s.setMem m).draws = s.draws := rfl
@[simp] theorem State.setMem_font (m : Memory) : (s.setMem m).font = s.font := rfl
@[simp] theorem State.setMem_inbox (m : Memory) : (s.setMem m).inbox = s.inbox := rfl
@[simp] theorem State.setMem_getV (m : Memory) (q : RegNum) : (s.setMem m).getV q = s.getV q := rfl
@[simp] theorem State.setMem_isDown (m : Memory) (q : Byte) : (s.setMem m).isDown q = s.isDown q := rfl

/-! ### setDisp -/

@[simp] theorem State.setDisp_v (d : Framebuffer) : (s.setDisp d).v = s.v := rfl
@[simp] theorem State.setDisp_i (d : Framebuffer) : (s.setDisp d).i = s.i := rfl
@[simp] theorem State.setDisp_pc (d : Framebuffer) : (s.setDisp d).pc = s.pc := rfl
@[simp] theorem State.setDisp_sp (d : Framebuffer) : (s.setDisp d).sp = s.sp := rfl
@[simp] theorem State.setDisp_dt (d : Framebuffer) : (s.setDisp d).dt = s.dt := rfl
@[simp] theorem State.setDisp_st (d : Framebuffer) : (s.setDisp d).st = s.st := rfl
@[simp] theorem State.setDisp_mem (d : Framebuffer) : (s.setDisp d).mem = s.mem := rfl
@[simp] theorem State.setDisp_disp (d : Framebuffer) : (s.setDisp d).disp = d := rfl
@[simp] theorem State.setDisp_keys (d : Framebuffer) : (s.setDisp d).keys = s.keys := rfl
@[simp] theorem State.setDisp_estate (d : Framebuffer) : (s.setDisp d).estate = s.estate := rfl
@[simp] theorem State.setDisp_waitX (d : Framebuffer) : (s.setDisp d).waitX = s.waitX := rfl
@[simp] theorem State.setDisp_opcode (d : Framebuffer) : (s.setDisp d).opcode = s.opcode := rfl
@[simp] theorem State.setDisp_errKind (d : Framebuffer) : (s.setDisp d).errKind = s.errKind := rfl
@[simp] theorem State.setDisp_errOpcode (d : Framebuffer) : (s.setDisp d).errOpcode = s.errOpcode := rfl
@[simp] theorem State.setDisp_errAddr (d : Framebuffer) : (s.setDisp d).errAddr = s.errAddr := rfl
@[simp] theorem State.setDisp_draws (d : Framebuffer) : (s.setDisp d).draws = s.draws := rfl
@[simp] theorem State.setDisp_font (d : Framebuffer) : (s.setDisp d).font = s.font := rfl
@[simp] theorem State.setDisp_inbox (d : Framebuffer) : (s.setDisp d).inbox = s.inbox := rfl
@[simp] theorem State.setDisp_getV (d : Framebuffer) (q : RegNum) : (s.setDisp d).getV q = s.getV q := rfl
@[simp] theorem State.setDisp_isDown (d : Framebuffer) (q : Byte) : (s.setDisp d).isDown q = s.isDown q := rfl

/-! ### setInbox -/

@[simp] theorem State.setInbox_v (es : List Event) : (s.setInbox es).v = s.v := rfl
@[simp] theorem State.setInbox_i (es : List Event) : (s.setInbox es).i = s.i := rfl
@[simp] theorem State.setInbox_pc (es : List Event) : (s.setInbox es).pc = s.pc := rfl
@[simp] theorem State.setInbox_sp (es : List Event) : (s.setInbox es).sp = s.sp := rfl
@[simp] theorem State.setInbox_dt (es : List Event) : (s.setInbox es).dt = s.dt := rfl
@[simp] theorem State.setInbox_st (es : List Event) : (s.setInbox es).st = s.st := rfl
@[simp] theorem State.setInbox_mem (es : List Event) : (s.setInbox es).mem = s.mem := rfl
@[simp] theorem State.setInbox_disp (es : List Event) : (s.setInbox es).disp = s.disp := rfl
@[simp] theorem State.setInbox_keys (es : List Event) : (s.setInbox es).keys = s.keys := rfl
@[simp] theorem State.setInbox_estate (es : List Event) : (s.setInbox es).estate = s.estate := rfl
@[simp] theorem State.setInbox_waitX (es : List Event) : (s.setInbox es).waitX = s.waitX := rfl
@[simp] theorem State.setInbox_opcode (es : List Event) : (s.setInbox es).opcode = s.opcode := rfl
@[simp] theorem State.setInbox_errKind (es : List Event) : (s.setInbox es).errKind = s.errKind := rfl
@[simp] theorem State.setInbox_errOpcode (es : List Event) : (s.setInbox es).errOpcode = s.errOpcode := rfl
@[simp] theorem State.setInbox_errAddr (es : List Event) : (s.setInbox es).errAddr = s.errAddr := rfl
@[simp] theorem State.setInbox_draws (es : List Event) : (s.setInbox es).draws = s.draws := rfl
@[simp] theorem State.setInbox_font (es : List Event) : (s.setInbox es).font = s.font := rfl
@[simp] theorem State.setInbox_inbox (es : List Event) : (s.setInbox es).inbox = es := rfl
@[simp] theorem State.setInbox_getV (es : List Event) (q : RegNum) : (s.setInbox es).getV q = s.getV q := rfl
@[simp] theorem State.setInbox_isDown (es : List Event) (q : Byte) : (s.setInbox es).isDown q = s.isDown q := rfl

/-! ### countDraw -/

@[simp] theorem State.countDraw_v : s.countDraw.v = s.v := rfl
@[simp] theorem State.countDraw_i : s.countDraw.i = s.i := rfl
@[simp] theorem State.countDraw_pc : s.countDraw.pc = s.pc := rfl
@[simp] theorem State.countDraw_sp : s.countDraw.sp = s.sp := rfl
@[simp] theorem State.countDraw_dt : s.countDraw.dt = s.dt := rfl
@[simp] theorem State.countDraw_st : s.countDraw.st = s.st := rfl
@[simp] theorem State.countDraw_mem : s.countDraw.mem = s.mem := rfl
@[simp] theorem State.countDraw_disp : s.countDraw.disp = s.disp := rfl
@[simp] theorem State.countDraw_keys : s.countDraw.keys = s.keys := rfl
@[simp] theorem State.countDraw_estate : s.countDraw.estate = s.estate := rfl
@[simp] theorem State.countDraw_waitX : s.countDraw.waitX = s.waitX := rfl
@[simp] theorem State.countDraw_opcode : s.countDraw.opcode = s.opcode := rfl
@[simp] theorem State.countDraw_errKind : s.countDraw.errKind = s.errKind := rfl
@[simp] theorem State.countDraw_errOpcode : s.countDraw.errOpcode = s.errOpcode := rfl
@[simp] theorem State.countDraw_errAddr : s.countDraw.errAddr = s.errAddr := rfl
@[simp] theorem State.countDraw_draws : s.countDraw.draws = s.draws + 1 := rfl
@[simp] theorem State.countDraw_font : s.countDraw.font = s.font := rfl
@[simp] theorem State.countDraw_inbox : s.countDraw.inbox = s.inbox := rfl
@[simp] theorem State.countDraw_getV (q : RegNum) : s.countDraw.getV q = s.getV q := rfl
@[simp] theorem State.countDraw_isDown (q : Byte) : s.countDraw.isDown q = s.isDown q := rfl

/-! ### latch -/

@[simp] theorem State.latch_v (w : Word) : (s.latch w).v = s.v := rfl
@[simp] theorem State.latch_i (w : Word) : (s.latch w).i = s.i := rfl
@[simp] theorem State.latch_pc (w : Word) : (s.latch w).pc = BitVec.ofNat 12 (s.pc.toNat + 2) := rfl
@[simp] theorem State.latch_sp (w : Word) : (s.latch w).sp = s.sp := rfl
@[simp] theorem State.latch_dt (w : Word) : (s.latch w).dt = s.dt := rfl
@[simp] theorem State.latch_st (w : Word) : (s.latch w).st = s.st := rfl
@[simp] theorem State.latch_mem (w : Word) : (s.latch w).mem = s.mem := rfl
@[simp] theorem State.latch_disp (w : Word) : (s.latch w).disp = s.disp := rfl
@[simp] theorem State.latch_keys (w : Word) : (s.latch w).keys = s.keys := rfl
@[simp] theorem State.latch_estate (w : Word) : (s.latch w).estate = s.estate := rfl
@[simp] theorem State.latch_waitX (w : Word) : (s.latch w).waitX = s.waitX := rfl
@[simp] theorem State.latch_opcode (w : Word) : (s.latch w).opcode = w := rfl
@[simp] theorem State.latch_errKind (w : Word) : (s.latch w).errKind = s.errKind := rfl
@[simp] theorem State.latch_errOpcode (w : Word) : (s.latch w).errOpcode = s.errOpcode := rfl
@[simp] theorem State.latch_errAddr (w : Word) : (s.latch w).errAddr = s.errAddr := rfl
@[simp] theorem State.latch_draws (w : Word) : (s.latch w).draws = s.draws := rfl
@[simp] theorem State.latch_font (w : Word) : (s.latch w).font = s.font := rfl
@[simp] theorem State.latch_inbox (w : Word) : (s.latch w).inbox = s.inbox := rfl
@[simp] theorem State.latch_getV (w : Word) (q : RegNum) : (s.latch w).getV q = s.getV q := rfl
@[simp] theorem State.latch_isDown (w : Word) (q : Byte) : (s.latch w).isDown q = s.isDown q := rfl

/-! ### enterError -/

@[simp] theorem State.enterError_v (e : Err) (op : Word) : (s.enterError e op).v = s.v := rfl
@[simp] theorem State.enterError_i (e : Err) (op : Word) : (s.enterError e op).i = s.i := rfl
@[simp] theorem State.enterError_pc (e : Err) (op : Word) : (s.enterError e op).pc = s.pc := rfl
@[simp] theorem State.enterError_sp (e : Err) (op : Word) : (s.enterError e op).sp = s.sp := rfl
@[simp] theorem State.enterError_dt (e : Err) (op : Word) : (s.enterError e op).dt = s.dt := rfl
@[simp] theorem State.enterError_st (e : Err) (op : Word) : (s.enterError e op).st = s.st := rfl
@[simp] theorem State.enterError_mem (e : Err) (op : Word) : (s.enterError e op).mem = s.mem := rfl
@[simp] theorem State.enterError_disp (e : Err) (op : Word) : (s.enterError e op).disp = s.disp := rfl
@[simp] theorem State.enterError_keys (e : Err) (op : Word) : (s.enterError e op).keys = s.keys := rfl
@[simp] theorem State.enterError_estate (e : Err) (op : Word) : (s.enterError e op).estate = .halted := rfl
@[simp] theorem State.enterError_waitX (e : Err) (op : Word) : (s.enterError e op).waitX = s.waitX := rfl
@[simp] theorem State.enterError_opcode (e : Err) (op : Word) : (s.enterError e op).opcode = s.opcode := rfl
@[simp] theorem State.enterError_errKind (e : Err) (op : Word) : (s.enterError e op).errKind = e.kind := rfl
@[simp] theorem State.enterError_errOpcode (e : Err) (op : Word) : (s.enterError e op).errOpcode = op := rfl
@[simp] theorem State.enterError_errAddr (e : Err) (op : Word) : (s.enterError e op).errAddr = e.info := rfl
@[simp] theorem State.enterError_draws (e : Err) (op : Word) : (s.enterError e op).draws = s.draws := rfl
@[simp] theorem State.enterError_font (e : Err) (op : Word) : (s.enterError e op).font = s.font := rfl
@[simp] theorem State.enterError_inbox (e : Err) (op : Word) : (s.enterError e op).inbox = s.inbox := rfl
@[simp] theorem State.enterError_getV (e : Err) (op : Word) (q : RegNum) : (s.enterError e op).getV q = s.getV q := rfl
@[simp] theorem State.enterError_isDown (e : Err) (op : Word) (q : Byte) : (s.enterError e op).isDown q = s.isDown q := rfl

/-! ### raise -/

@[simp] theorem State.raise_v (e : Err) : (s.raise e).v = s.v := rfl
@[simp] theorem State.raise_i (e : Err) : (s.raise e).i = s.i := rfl
@[simp] theorem State.raise_pc (e : Err) : (s.raise e).pc = s.pc := rfl
@[simp] theorem State.raise_sp (e : Err) : (s.raise e).sp = s.sp := rfl
@[simp] theorem State.raise_dt (e : Err) : (s.raise e).dt = s.dt := rfl
@[simp] theorem State.raise_st (e : Err) : (s.raise e).st = s.st := rfl
@[simp] theorem State.raise_mem (e : Err) : (s.raise e).mem = s.mem := rfl
@[simp] theorem State.raise_disp (e : Err) : (s.raise e).disp = s.disp := rfl
@[simp] theorem State.raise_keys (e : Err) : (s.raise e).keys = s.keys := rfl
@[simp] theorem State.raise_estate (e : Err) : (s.raise e).estate = .halted := rfl
@[simp] theorem State.raise_waitX (e : Err) : (s.raise e).waitX = s.waitX := rfl
@[simp] theorem State.raise_opcode (e : Err) : (s.raise e).opcode = s.opcode := rfl
@[simp] theorem State.raise_errKind (e : Err) : (s.raise e).errKind = e.kind := rfl
@[simp] theorem State.raise_errOpcode (e : Err) : (s.raise e).errOpcode = s.opcode := rfl
@[simp] theorem State.raise_errAddr (e : Err) : (s.raise e).errAddr = e.info := rfl
@[simp] theorem State.raise_draws (e : Err) : (s.raise e).draws = s.draws := rfl
@[simp] theorem State.raise_font (e : Err) : (s.raise e).font = s.font := rfl
@[simp] theorem State.raise_inbox (e : Err) : (s.raise e).inbox = s.inbox := rfl
@[simp] theorem State.raise_getV (e : Err) (q : RegNum) : (s.raise e).getV q = s.getV q := rfl
@[simp] theorem State.raise_isDown (e : Err) (q : Byte) : (s.raise e).isDown q = s.isDown q := rfl

/-! ### setKey -/

@[simp] theorem State.setKey_v (c : Byte) (d : Bool) : (s.setKey c d).v = s.v := rfl
@[simp] theorem State.setKey_i (c : Byte) (d : Bool) : (s.setKey c d).i = s.i := rfl
@[simp] theorem State.setKey_pc (c : Byte) (d : Bool) : (s.setKey c d).pc = s.pc := rfl
@[simp] theorem State.setKey_sp (c : Byte) (d : Bool) : (s.setKey c d).sp = s.sp := rfl
@[simp] theorem State.setKey_dt (c : Byte) (d : Bool) : (s.setKey c d).dt = s.dt := rfl
@[simp] theorem State.setKey_st (c : Byte) (d : Bool) : (s.setKey c d).st = s.st := rfl
@[simp] theorem State.setKey_mem (c : Byte) (d : Bool) : (s.setKey c d).mem = s.mem := rfl
@[simp] theorem State.setKey_disp (c : Byte) (d : Bool) : (s.setKey c d).disp = s.disp := rfl
@[simp] theorem State.setKey_keys (c : Byte) (d : Bool) : (s.setKey c d).keys = s.keys.set (keyNumber c).toNat d := rfl
@[simp] theorem State.setKey_estate (c : Byte) (d : Bool) : (s.setKey c d).estate = s.estate := rfl
@[simp] theorem State.setKey_waitX (c : Byte) (d : Bool) : (s.setKey c d).waitX = s.waitX := rfl
@[simp] theorem State.setKey_opcode (c : Byte) (d : Bool) : (s.setKey c d).opcode = s.opcode := rfl
@[simp] theorem State.setKey_errKind (c : Byte) (d : Bool) : (s.setKey c d).errKind = s.errKind := rfl
@[simp] theorem State.setKey_errOpcode (c : Byte) (d : Bool) : (s.setKey c d).errOpcode = s.errOpcode := rfl
@[simp] theorem State.setKey_errAddr (c : Byte) (d : Bool) : (s.setKey c d).errAddr = s.errAddr := rfl
@[simp] theorem State.setKey_draws (c : Byte) (d : Bool) : (s.setKey c d).draws = s.draws := rfl
@[simp] theorem State.setKey_font (c : Byte) (d : Bool) : (s.setKey c d).font = s.font := rfl
@[simp] theorem State.setKey_inbox (c : Byte) (d : Bool) : (s.setKey c d).inbox = s.inbox := rfl
@[simp] theorem State.setKey_getV (c : Byte) (d : Bool) (q : RegNum) : (s.setKey c d).getV q = s.getV q := rfl

/-! ### startWait -/

@[simp] theorem State.startWait_v (x : RegNum) : (s.startWait x).v = s.v := rfl
@[simp] theorem State.startWait_i (x : RegNum) : (s.startWait x).i = s.i := rfl
@[simp] theorem State.startWait_pc (x : RegNum) : (s.startWait x).pc = s.pc := rfl
@[simp] theorem State.startWait_sp (x : RegNum) : (s.startWait x).sp = s.sp := rfl
@[simp] theorem State.startWait_dt (x : RegNum) : (s.startWait x).dt = s.dt := rfl
@[simp] theorem State.startWait_st (x : RegNum) : (s.startWait x).st = s.st := rfl
@[simp] theorem State.startWait_mem (x : RegNum) : (s.startWait x).mem = s.mem := rfl
@[simp] theorem State.startWait_disp (x : RegNum) : (s.startWait x).disp = s.disp := rfl
@[simp] theorem State.startWait_keys (x : RegNum) : (s.startWait x).keys = s.keys := rfl
@[simp] theorem State.startWait_estate (x : RegNum) : (s.startWait x).estate = .waitingForKey := rfl
@[simp] theorem State.startWait_waitX (x : RegNum) : (s.startWait x).waitX = x := rfl
@[simp] theorem State.startWait_opcode (x : RegNum) : (s.startWait x).opcode = s.opcode := rfl
@[simp] theorem State.startWait_errKind (x : RegNum) : (s.startWait x).errKind = s.errKind := rfl
@[simp] theorem State.startWait_errOpcode (x : RegNum) : (s.startWait x).errOpcode = s.errOpcode := rfl
@[simp] theorem State.startWait_errAddr (x : RegNum) : (s.startWait x).errAddr = s.errAddr := rfl
@[simp] theorem State.startWait_draws (x : RegNum) : (s.startWait x).draws = s.draws := rfl
@[simp] theorem State.startWait_font (x : RegNum) : (s.startWait x).font = s.font := rfl
@[simp] theorem State.startWait_inbox (x : RegNum) : (s.startWait x).inbox = s.inbox := rfl
@[simp] theorem State.startWait_getV (x : RegNum) (q : RegNum) : (s.startWait x).getV q = s.getV q := rfl
@[simp] theorem State.startWait_isDown (x : RegNum) (q : Byte) : (s.startWait x).isDown q = s.isDown q := rfl

/-! ### endWait -/

@[simp] theorem State.endWait_v (c : Byte) : (s.endWait c).v = s.v.set s.waitX.toNat ((keyNumber c).setWidth 8) := rfl
@[simp] theorem State.endWait_i (c : Byte) : (s.endWait c).i = s.i := rfl
@[simp] theorem State.endWait_pc (c : Byte) : (s.endWait c).pc = s.pc := rfl
@[simp] theorem State.endWait_sp (c : Byte) : (s.endWait c).sp = s.sp := rfl
@[simp] theorem State.endWait_dt (c : Byte) : (s.endWait c).dt = s.dt := rfl
@[simp] theorem State.endWait_st (c : Byte) : (s.endWait c).st = s.st := rfl
@[simp] theorem State.endWait_mem (c : Byte) : (s.endWait c).mem = s.mem := rfl
@[simp] theorem State.endWait_disp (c : Byte) : (s.endWait c).disp = s.disp := rfl
@[simp] theorem State.endWait_keys (c : Byte) : (s.endWait c).keys = s.keys := rfl
@[simp] theorem State.endWait_estate (c : Byte) : (s.endWait c).estate = .ready := rfl
@[simp] theorem State.endWait_waitX (c : Byte) : (s.endWait c).waitX = s.waitX := rfl
@[simp] theorem State.endWait_opcode (c : Byte) : (s.endWait c).opcode = s.opcode := rfl
@[simp] theorem State.endWait_errKind (c : Byte) : (s.endWait c).errKind = s.errKind := rfl
@[simp] theorem State.endWait_errOpcode (c : Byte) : (s.endWait c).errOpcode = s.errOpcode := rfl
@[simp] theorem State.endWait_errAddr (c : Byte) : (s.endWait c).errAddr = s.errAddr := rfl
@[simp] theorem State.endWait_draws (c : Byte) : (s.endWait c).draws = s.draws := rfl
@[simp] theorem State.endWait_font (c : Byte) : (s.endWait c).font = s.font := rfl
@[simp] theorem State.endWait_inbox (c : Byte) : (s.endWait c).inbox = s.inbox := rfl
@[simp] theorem State.endWait_isDown (c : Byte) (q : Byte) : (s.endWait c).isDown q = s.isDown q := rfl

/-! ### skipIf: every field but PC -/

@[simp] theorem State.skipIf_v (c : Bool) : (s.skipIf c).v = s.v := by cases c <;> rfl
@[simp] theorem State.skipIf_i (c : Bool) : (s.skipIf c).i = s.i := by cases c <;> rfl
@[simp] theorem State.skipIf_sp (c : Bool) : (s.skipIf c).sp = s.sp := by cases c <;> rfl
@[simp] theorem State.skipIf_dt (c : Bool) : (s.skipIf c).dt = s.dt := by cases c <;> rfl
@[simp] theorem State.skipIf_st (c : Bool) : (s.skipIf c).st = s.st := by cases c <;> rfl
@[simp] theorem State.skipIf_mem (c : Bool) : (s.skipIf c).mem = s.mem := by cases c <;> rfl
@[simp] theorem State.skipIf_disp (c : Bool) : (s.skipIf c).disp = s.disp := by cases c <;> rfl
@[simp] theorem State.skipIf_keys (c : Bool) : (s.skipIf c).keys = s.keys := by cases c <;> rfl
@[simp] theorem State.skipIf_estate (c : Bool) : (s.skipIf c).estate = s.estate := by cases c <;> rfl
@[simp] theorem State.skipIf_waitX (c : Bool) : (s.skipIf c).waitX = s.waitX := by cases c <;> rfl
@[simp] theorem State.skipIf_opcode (c : Bool) : (s.skipIf c).opcode = s.opcode := by cases c <;> rfl
@[simp] theorem State.skipIf_errKind (c : Bool) : (s.skipIf c).errKind = s.errKind := by cases c <;> rfl
@[simp] theorem State.skipIf_errOpcode (c : Bool) : (s.skipIf c).errOpcode = s.errOpcode := by cases c <;> rfl
@[simp] theorem State.skipIf_errAddr (c : Bool) : (s.skipIf c).errAddr = s.errAddr := by cases c <;> rfl
@[simp] theorem State.skipIf_draws (c : Bool) : (s.skipIf c).draws = s.draws := by cases c <;> rfl
@[simp] theorem State.skipIf_font (c : Bool) : (s.skipIf c).font = s.font := by cases c <;> rfl
@[simp] theorem State.skipIf_inbox (c : Bool) : (s.skipIf c).inbox = s.inbox := by cases c <;> rfl
@[simp] theorem State.skipIf_getV (c : Bool) (q : RegNum) : (s.skipIf c).getV q = s.getV q := by cases c <;> rfl

theorem State.skipIf_pc (c : Bool) :
    (s.skipIf c).pc = if c then BitVec.ofNat 12 (s.pc.toNat + 2) else s.pc := by cases c <;> rfl

/-! ### resetBlock: the model's own fields go on, the rest is the reset state -/

@[simp] theorem State.resetBlock_v : s.resetBlock.v = State.reset.v := rfl
@[simp] theorem State.resetBlock_i : s.resetBlock.i = State.reset.i := rfl
@[simp] theorem State.resetBlock_pc : s.resetBlock.pc = State.reset.pc := rfl
@[simp] theorem State.resetBlock_sp : s.resetBlock.sp = State.reset.sp := rfl
@[simp] theorem State.resetBlock_dt : s.resetBlock.dt = State.reset.dt := rfl
@[simp] theorem State.resetBlock_st : s.resetBlock.st = State.reset.st := rfl
@[simp] theorem State.resetBlock_mem : s.resetBlock.mem = Memory.putList [] fontBase s.font.toList := rfl
@[simp] theorem State.resetBlock_disp : s.resetBlock.disp = State.reset.disp := rfl
@[simp] theorem State.resetBlock_keys : s.resetBlock.keys = State.reset.keys := rfl
@[simp] theorem State.resetBlock_estate : s.resetBlock.estate = State.reset.estate := rfl
@[simp] theorem State.resetBlock_waitX : s.resetBlock.waitX = State.reset.waitX := rfl
@[simp] theorem State.resetBlock_opcode : s.resetBlock.opcode = State.reset.opcode := rfl
@[simp] theorem State.resetBlock_errKind : s.resetBlock.errKind = State.reset.errKind := rfl
@[simp] theorem State.resetBlock_errOpcode : s.resetBlock.errOpcode = State.reset.errOpcode := rfl
@[simp] theorem State.resetBlock_errAddr : s.resetBlock.errAddr = State.reset.errAddr := rfl
@[simp] theorem State.resetBlock_draws : s.resetBlock.draws = s.draws := rfl
@[simp] theorem State.resetBlock_font : s.resetBlock.font = s.font := rfl
@[simp] theorem State.resetBlock_inbox : s.resetBlock.inbox = s.inbox := rfl

/-! ### Register reads after register writes -/

theorem State.getV_setV (r q : RegNum) (b : Byte) :
    (s.setV r b).getV q = if r = q then b else s.getV q := by
  simp only [State.getV, State.setV, Vector.getElem_set, BitVec.toNat_inj]

@[simp] theorem State.getV_setV_same (r : RegNum) (b : Byte) : (s.setV r b).getV r = b := by
  simp [State.getV_setV]

@[simp] theorem State.getV_setV_ne (r q : RegNum) (b : Byte) (h : r ≠ q) :
    (s.setV r b).getV q = s.getV q := by
  simp [State.getV_setV, h]

theorem State.getV_setVFlag (x q : RegNum) (b f : Byte) :
    (s.setVFlag x b f).getV q = if q = 0xF#4 then f else if q = x then b else s.getV q := by
  simp only [State.setVFlag, State.getV_setV, eq_comm]

theorem State.getV_setRegs (w : Vector Byte 16) (q : RegNum) : (s.setRegs w).getV q = w[q.toNat] := rfl

/-! ### The keypad latch -/

theorem State.isDown_setKey (c q : Byte) (d : Bool) :
    (s.setKey c d).isDown q = if keyNumber c = keyNumber q then d else s.isDown q := by
  simp only [State.isDown, State.setKey, Vector.getElem_set, BitVec.toNat_inj]

end Sys2Proof.Machine
end

