-- ==== Sys2Proof/Laws/Ops.lean ====
section
/-! SUPPORT. For each shared operation one lemma that says everything it can do. -/

namespace Sys2Proof.Machine

/-! ### Memory accesses -/

theorem State.readByte_eq (s : State) (a : Nat) :
    s.readByte a = if a ≤ 0xFFF then .ok (s.mem.get a) else .error (.address a) := by
  unfold State.readByte addrMax
  by_cases h : a ≤ 0xFFF
  · rw [if_neg (by omega), if_pos h]
  · rw [if_pos (by omega), if_neg h]

theorem State.writeByte_eq (s : State) (a : Nat) (b : Byte) :
    s.writeByte a b = if a ≤ 0xFFF then .ok (s.setMem (s.mem.put a b)) else .error (.address a) := by
  unfold State.writeByte addrMax
  by_cases h : a ≤ 0xFFF
  · rw [if_neg (by omega), if_pos h]
  · rw [if_pos (by omega), if_neg h]

theorem State.readWord_eq (s : State) (a : Nat) :
    s.readWord a = if a ≤ 0xFFE then .ok (joinBytes (s.mem.get a) (s.mem.get (a + 1)))
      else .error (.address (max a 0x1000)) := by
  unfold State.readWord addrMax
  by_cases h : a ≤ 0xFFE
  · rw [if_neg (by omega), if_neg (by omega), if_pos h]
  · rw [if_neg h]
    by_cases h' : 0xFFF < a
    · rw [if_pos h', Nat.max_eq_left (by omega)]
    · rw [if_neg h', if_pos (by omega), show a + 1 = max a 0x1000 by omega]

theorem State.writeWord_eq (s : State) (a : Nat) (w : Word) :
    s.writeWord a w = if a ≤ 0xFFE then .ok (s.setMem ((s.mem.put a (highByte w)).put (a + 1) (lowByte w)))
      else .error (.address (max a 0x1000)) := by
  unfold State.writeWord addrMax
  by_cases h : a ≤ 0xFFE
  · rw [if_neg (by omega), if_neg (by omega), if_pos h]
  · rw [if_neg h]
    by_cases h' : 0xFFF < a
    · rw [if_pos h', Nat.max_eq_left (by omega)]
    · rw [if_neg h', if_pos (by omega), show a + 1 = max a 0x1000 by omega]

theorem firstBad_eq (a n : Nat) :
    firstBad a n = if n = 0 ∨ a + n ≤ 0x1000 then none else some (max a 0x1000) := by
  induction n generalizing a with
  | zero => simp [firstBad]
  | succ n ih =>
    simp only [firstBad, addrMax, ih]
    by_cases h : 0xFFF < a
    · rw [if_pos h, if_neg (by omega), Nat.max_eq_left (by omega)]
    · rw [if_neg h]
      by_cases h2 : n = 0 ∨ a + 1 + n ≤ 0x1000
      · rw [if_pos h2, if_pos (by omega)]
      · rw [if_neg h2, if_neg (by omega), show max (a + 1) 0x1000 = max a 0x1000 by omega]

theorem State.readBytes_eq (s : State) (a n : Nat) :
    s.readBytes a n = if n = 0 ∨ a + n ≤ 0x1000 then .ok (s.mem.getList a n)
      else .error (.address (max a 0x1000)) := by
  unfold State.readBytes
  rw [firstBad_eq]
  by_cases h : n = 0 ∨ a + n ≤ 0x1000
  · rw [if_pos h, if_pos h]
  · rw [if_neg h, if_neg h]

theorem State.writeBytes_eq (s : State) (a : Nat) (bs : List Byte) :
    s.writeBytes a bs = if bs.length = 0 ∨ a + bs.length ≤ 0x1000 then .ok (s.setMem (s.mem.putList a bs))
      else .error (.address (max a 0x1000)) := by
  unfold State.writeBytes
  rw [firstBad_eq]
  by_cases h : bs.length = 0 ∨ a + bs.length ≤ 0x1000
  · rw [if_pos h, if_pos h]
  · rw [if_neg h, if_neg h]

/-! ### The stack -/

/-- Everything `Push` can do (R29): overflow, or SP advanced and the word stored in the new slot. -/
theorem State.push_eq (s : State) (w : Word) :
    s.push w = if 0x6C ≤ s.sp.toNat then .error ⟨.stackOverflow, s.sp.setWidth 17⟩
      else .ok ((s.setSp (s.sp.toNat + 2)).setMem
        ((s.mem.put (s.sp.toNat + 2) (highByte w)).put (s.sp.toNat + 3) (lowByte w))) := by
  unfold State.push spMax
  by_cases h : 0x6C ≤ s.sp.toNat
  · rw [if_pos h, if_pos h]
  · rw [if_neg h, if_neg h]
    have hsp : (s.setSp (s.sp.toNat + 2)).sp.toNat = s.sp.toNat + 2 := by
      simp only [State.setSp_sp, BitVec.toNat_ofNat]; omega
    simp only [hsp, State.writeWord_eq, State.setSp_mem]
    rw [if_pos (by omega)]

/-- Everything `Pop` can do (R29): underflow, or the word of the slot and SP retreated. -/
theorem State.pop_eq (s : State) :
    s.pop = if s.sp.toNat ≤ 0x4E then .error ⟨.stackUnderflow, s.sp.setWidth 17⟩
      else .ok (joinBytes (s.mem.get s.sp.toNat) (s.mem.get (s.sp.toNat + 1)), s.setSp (s.sp.toNat - 2)) := by
  unfold State.pop spEmpty
  by_cases h : s.sp.toNat ≤ 0x4E
  · rw [if_pos h, if_pos h]
  · rw [if_neg h, if_neg h, State.readWord_eq, if_pos (by have := s.sp.isLt; omega)]

/-! ### Blocks of registers -/

theorem State.length_regsUpTo (s : State) (x : RegNum) : (s.regsUpTo x).length = x.toNat + 1 := by
  have := x.isLt
  simp only [State.regsUpTo, List.length_take, Vector.length_toList]; omega

theorem State.getD_regsUpTo (s : State) (x r : RegNum) (h : r.toNat ≤ x.toNat) :
    (s.regsUpTo x).getD r.toNat 0 = s.getV r := by
  have hr := r.isLt
  unfold State.regsUpTo State.getV
  rw [List.getD_eq_getElem _ _ (by simp; omega)]
  simp

theorem getElem_fillRegs (v : Vector Byte 16) (k : Nat) (bs : List Byte) (r : Nat) (hr : r < 16) :
    (fillRegs v k bs)[r] = if k ≤ r ∧ r < k + bs.length then bs.getD (r - k) 0 else v[r] := by
  induction bs generalizing v k with
  | nil =>
    rw [if_neg (by simp)]; rfl
  | cons b bs ih =>
    simp only [fillRegs, ih, List.length_cons, Vector.getElem_setIfInBounds]
    by_cases hk : r = k
    · subst hk
      rw [if_neg (by omega), if_pos rfl, if_pos (by omega)]; simp
    · by_cases hr' : k + 1 ≤ r ∧ r < k + 1 + bs.length
      · have h1 : r - k = (r - (k + 1)) + 1 := by omega
        rw [if_pos hr', if_pos (by omega), h1, List.getD_cons_succ]
      · rw [if_neg hr', if_neg (Ne.symm hk), if_neg (by omega)]

/-! ### Taking an error, and completing -/

/-- An instruction that may raise always answers a next state: its result, or the error taken (R220). -/
theorem State.finish_next (s : State) (r : Except Err State) :
    s.finish r = .next (match r with | .ok t => t | .error e => s.raise e) := by
  cases r <;> rfl

@[simp] theorem State.finish_ok (s t : State) : s.finish (.ok t) = .next t := rfl

@[simp] theorem State.finish_error (s : State) (e : Err) : s.finish (.error e) = .next (s.raise e) := rfl

theorem Err.address_info {a : Nat} (h : a < 2 ^ 17) : (Err.address a).info.toNat = a := by
  simp only [Err.address, BitVec.toNat_ofNat]
  exact Nat.mod_eq_of_lt h

/-! ### The fetch -/

/-- Everything the fetch can do (R24, R26): latch the word and advance, or the error at PC = 0xFFF. -/
theorem State.fetch_eq (s : State) :
    s.fetch = if s.pc.toNat ≤ 0xFFE
      then s.latch (joinBytes (s.mem.get s.pc.toNat) (s.mem.get (s.pc.toNat + 1)))
      else s.enterError (.address 0x1000) 0x0000#16 := by
  have := s.pc.isLt
  unfold State.fetch
  rw [State.readWord_eq]
  by_cases h : s.pc.toNat ≤ 0xFFE
  · rw [if_pos h, if_pos h]
  · rw [if_neg h, if_neg h, show max s.pc.toNat 0x1000 = 0x1000 by omega]

/-! ### The events -/

/-- Everything a tick can do (R188). -/
theorem State.tick_cases (s : State) :
    (s.estate = .halted ∧ s.tick = s) ∨
      (s.estate ≠ .halted ∧ s.tick = (s.setDt (countDown s.dt)).setSt (countDown s.st)) := by
  unfold State.tick
  by_cases h : s.estate = .halted
  · exact .inl ⟨h, if_pos h⟩
  · exact .inr ⟨h, if_neg h⟩

theorem toNat_countDown (b : Byte) : (countDown b).toNat = b.toNat - 1 := by
  have := b.isLt
  unfold countDown
  split
  · simp only [BitVec.toNat_ofNat]; omega
  · omega

/-- Everything a key event can do (R185, R189). -/
theorem State.keyEvent_cases (s : State) (code : Byte) (down : Bool) :
    (s.estate = .waitingForKey ∧ down = true ∧ s.keyEvent code down = (s.setKey code true).endWait code) ∨
      (¬ (s.estate = .waitingForKey ∧ down = true) ∧ s.keyEvent code down = s.setKey code down) := by
  unfold State.keyEvent
  by_cases h : s.estate = .waitingForKey ∧ down = true
  · exact .inl ⟨h.1, h.2, by rw [if_pos h, h.2]⟩
  · exact .inr ⟨h, if_neg h⟩

/-! ### Reset, with any font -/

/-- What memory holds right after a reset of a machine with the font `f`: the font's bytes, and what an unlisted address reads as above them (R260). -/
theorem State.get_resetWith (f : Font) (a : Nat) :
    (State.resetWith f).mem.get a = if a < 80 then f.toList.getD a 0 else Memory.unlisted a := by
  show Memory.get (Memory.putList [] fontBase f.toList) a = _
  rw [Memory.get_putList]
  simp [fontBase, Memory.get]

/-- The reset memory is in canonical form, whatever the font. -/
theorem State.wf_resetWith (f : Font) : (State.resetWith f).mem.wf = true :=
  Memory.wf_putList f.toList rfl (by simp [fontBase, addrMax])

/-- With the default font the reset memory lists nothing, and the machine is `State.reset` (R8, R39). -/
theorem State.resetWith_default : State.resetWith defaultFont = State.reset := by
  have h : Memory.putList [] fontBase defaultFont.toList = [] :=
    Memory.putList_unlisted fontBase fontTable (fun k _ => by rw [fontBase, Nat.zero_add]; rfl)
  simp only [State.resetWith, h]; rfl

/-- A reset of a machine with the default font (R260). -/
theorem State.resetBlock_default {s : State} (h : s.font = defaultFont) :
    s.resetBlock = { State.reset with draws := s.draws, inbox := s.inbox } := by
  rw [State.resetBlock, h, State.resetWith_default]

/-- The copy loop of a ROM load: all bytes placed, or those that fit and the error (R264). -/
theorem State.loadFrom_eq (s : State) (a : Nat) (bs : List Byte) (ha : a ≤ 0x1000) :
    s.loadFrom a bs = if a + bs.length ≤ 0x1000 then s.setMem (s.mem.putList a bs)
      else (s.setMem (s.mem.putList a (bs.take (0x1000 - a)))).enterError (.address 0x1000) 0x0000#16 := by
  induction bs generalizing s a with
  | nil => rw [if_pos (by simpa using ha)]; rfl
  | cons b bs ih =>
    unfold State.loadFrom
    rw [State.writeByte_eq]
    by_cases h : a ≤ 0xFFF
    · rw [if_pos h]
      simp only []
      rw [ih _ _ (by omega)]
      have e : 0x1000 - a = (0x1000 - (a + 1)) + 1 := by omega
      simp only [List.length_cons, e, List.take_succ_cons, Memory.putList, State.setMem_mem]
      by_cases h2 : a + 1 + bs.length ≤ 0x1000
      · rw [if_pos h2, if_pos (by omega)]; rfl
      · rw [if_neg h2, if_neg (by omega)]; rfl
    · have : a = 0x1000 := by omega
      subst this
      rw [if_neg h, if_neg (by simp)]
      rfl

end Sys2Proof.Machine
end

