-- ==== Sys2Proof/Laws/Step.lean ====
section
/-! SUPPORT. What one step can do, said once: the event it takes, the fetch, and the instruction it runs; and the closed form of each instruction that may raise an error. -/

namespace Sys2Proof.Machine

/-! ### The event a step takes -/

theorem step_of_empty {s : State} (h : s.inbox = []) : step s = s.engineStep := by
  simp only [step, nextEvent, h]

theorem step_of_event {s : State} {e : Event} {es : List Event} (h : s.inbox = e :: es) :
    step s = applyEvent e (s.setInbox es) := by
  simp only [step, nextEvent, h]

/-! ### The engine -/

theorem State.engineStep_not_ready {s : State} (h : s.estate ≠ .ready) : s.engineStep = .next s := if_neg h

theorem State.executeHalf_not_ready {s : State} (h : s.estate ≠ .ready) : s.executeHalf = .next s := if_neg h

theorem State.executeHalf_ready {s : State} (h : s.estate = .ready) :
    s.executeHalf = match decode s.opcode with | .ok i => exec i s | .error _ => .next s.illegal := if_pos h

/-- Everything the engine step of a Ready machine can do (R243): the fetch's error at PC = 0xFFF, an illegal word, or the decoded instruction in the state after the fetch. -/
theorem State.engineStep_ready {s : State} (h : s.estate = .ready) :
    s.engineStep = if s.pc.toNat ≤ 0xFFE
      then match decode (joinBytes (s.mem.get s.pc.toNat) (s.mem.get (s.pc.toNat + 1))) with
        | .ok i => exec i (s.latch (joinBytes (s.mem.get s.pc.toNat) (s.mem.get (s.pc.toNat + 1))))
        | .error _ => .next (s.latch (joinBytes (s.mem.get s.pc.toNat) (s.mem.get (s.pc.toNat + 1)))).illegal
      else .next (s.enterError (.address 0x1000) 0x0000#16) := by
  rw [State.engineStep, if_pos h, State.fetchHalf, if_pos h, State.fetch_eq]
  by_cases hp : s.pc.toNat ≤ 0xFFE
  · rw [if_pos hp, if_pos hp]
    exact State.executeHalf_ready h
  · rw [if_neg hp, if_neg hp]
    exact State.executeHalf_not_ready (by simp)

/-! ### The instructions that may raise, in closed form -/

/-- RET (R141). -/
theorem exec_ret_eq (s : State) :
    exec .ret s = .next (if s.sp.toNat ≤ 0x4E then s.raise ⟨.stackUnderflow, s.sp.setWidth 17⟩
      else (s.setSp (s.sp.toNat - 2)).setPc
        (joinBytes (s.mem.get s.sp.toNat) (s.mem.get (s.sp.toNat + 1))).toNat) := by
  show execRet s = _
  rw [execRet, State.pop_eq]
  by_cases h : s.sp.toNat ≤ 0x4E
  · simp only [if_pos h, State.finish_error]
  · simp only [if_neg h, State.finish_ok]

/-- CALL (R143). -/
theorem exec_call_eq (nnn : Addr) (s : State) :
    exec (.call nnn) s = .next (if 0x6C ≤ s.sp.toNat then s.raise ⟨.stackOverflow, s.sp.setWidth 17⟩
      else ((s.setSp (s.sp.toNat + 2)).setMem
        ((s.mem.put (s.sp.toNat + 2) (highByte (s.pc.setWidth 16))).put (s.sp.toNat + 3)
          (lowByte (s.pc.setWidth 16)))).setPc nnn.toNat) := by
  show execCall nnn s = _
  rw [execCall, State.push_eq]
  by_cases h : 0x6C ≤ s.sp.toNat
  · simp only [if_pos h, State.finish_error]
  · simp only [if_neg h, State.finish_ok]

/-- DRW (R164). -/
theorem exec_drw_eq (x y : RegNum) (n : Nibble) (s : State) :
    exec (.drw x y n) s = .next (if n.toNat = 0 ∨ s.i.toNat + n.toNat ≤ 0x1000
      then s.drawAt (s.getV x) (s.getV y) (s.mem.getList s.i.toNat n.toNat)
      else s.raise (.address (max s.i.toNat 0x1000))) := by
  show execDrw x y n s = _
  rw [execDrw, State.readBytes_eq, State.index]
  by_cases h : n.toNat = 0 ∨ s.i.toNat + n.toNat ≤ 0x1000
  · simp only [if_pos h, State.finish_ok]
  · simp only [if_neg h, State.finish_error]

/-- LD B, Vx (R204). -/
theorem exec_ldB_eq (x : RegNum) (s : State) :
    exec (.ldB x) s = .next (if s.i.toNat + 3 ≤ 0x1000
      then s.setMem (s.mem.putList s.i.toNat (bcdDigits (s.getV x)))
      else s.raise (.address (max s.i.toNat 0x1000))) := by
  show execLdB x s = _
  rw [execLdB, State.writeBytes_eq, State.index, show (bcdDigits (s.getV x)).length = 3 from rfl]
  by_cases h : s.i.toNat + 3 ≤ 0x1000
  · simp only [if_pos h, if_pos (Or.inr h : 3 = 0 ∨ s.i.toNat + 3 ≤ 0x1000), State.finish_ok]
  · simp only [if_neg h, if_neg (by omega : ¬ (3 = 0 ∨ s.i.toNat + 3 ≤ 0x1000)), State.finish_error]

/-- LD [I], Vx (R205). -/
theorem exec_stRegs_eq (x : RegNum) (s : State) :
    exec (.stRegs x) s = .next (if s.i.toNat + x.toNat ≤ 0xFFF
      then s.setMem (s.mem.putList s.i.toNat (s.regsUpTo x))
      else s.raise (.address (max s.i.toNat 0x1000))) := by
  show execStRegs x s = _
  rw [execStRegs, State.writeBytes_eq, State.index, State.length_regsUpTo]
  by_cases h : s.i.toNat + x.toNat ≤ 0xFFF
  · rw [if_pos (by omega), if_pos h, State.finish_ok]
  · rw [if_neg (by omega), if_neg h, State.finish_error]

/-- LD Vx, [I] (R206). -/
theorem exec_ldRegs_eq (x : RegNum) (s : State) :
    exec (.ldRegs x) s = .next (if s.i.toNat + x.toNat ≤ 0xFFF
      then s.setRegs (fillRegs s.v 0 (s.mem.getList s.i.toNat (x.toNat + 1)))
      else s.raise (.address (max s.i.toNat 0x1000))) := by
  show execLdRegs x s = _
  rw [execLdRegs, State.readBytes_eq, State.index, blockLength]
  by_cases h : s.i.toNat + x.toNat ≤ 0xFFF
  · rw [if_pos (by omega), if_pos h]; rfl
  · rw [if_neg (by omega), if_neg h]; rfl

end Sys2Proof.Machine
end

