-- ==== Sys2Proof/Laws/Frames.lean ====
section
/-! SUPPORT. What each shared operation leaves unchanged, in the words of Safety.lean: a meaning that is one of these operations has the frame without being unfolded. -/

namespace Sys2Proof.Machine

theorem onlyRegs_setV (s : State) (x : RegNum) (b : Byte) : OnlyRegs [x] s (s.setV x b) :=
  ⟨fun r hr => State.getV_setV_ne s x r b (fun h => hr (by simp [h])), rfl, ⟨rfl, rfl⟩, fun _ => rfl,
    ⟨rfl, rfl, rfl, rfl⟩, ⟨rfl, rfl, rfl, rfl, rfl, rfl⟩, rfl, rfl, rfl⟩

theorem onlyRegs_setVFlag (s : State) (x : RegNum) (b f : Byte) : OnlyRegs [x, 0xF#4] s (s.setVFlag x b f) :=
  ⟨fun r hr => by
      simp only [List.mem_cons, List.not_mem_nil, or_false, not_or] at hr
      rw [State.getV_setVFlag, if_neg hr.2, if_neg hr.1],
    rfl, ⟨rfl, rfl⟩, fun _ => rfl, ⟨rfl, rfl, rfl, rfl⟩, ⟨rfl, rfl, rfl, rfl, rfl, rfl⟩, rfl, rfl, rfl⟩

theorem onlyRegs_refl (rs : List RegNum) (s : State) : OnlyRegs rs s s :=
  ⟨fun _ _ => rfl, rfl, ⟨rfl, rfl⟩, fun _ => rfl, ⟨rfl, rfl, rfl, rfl⟩, ⟨rfl, rfl, rfl, rfl, rfl, rfl⟩, rfl, rfl, rfl⟩

theorem onlyPc_setPc (s : State) (a : Nat) : OnlyPc s (s.setPc a) :=
  ⟨fun _ _ => rfl, ⟨rfl, rfl⟩, fun _ => rfl, ⟨rfl, rfl, rfl, rfl⟩, ⟨rfl, rfl, rfl, rfl, rfl, rfl⟩, rfl, rfl, rfl⟩

theorem onlyPc_skipIf (s : State) (c : Bool) : OnlyPc s (s.skipIf c) := by
  cases c
  · exact onlyPc_setPc_refl s
  · exact onlyPc_setPc s _
where
  onlyPc_setPc_refl (s : State) : OnlyPc s s :=
    ⟨fun _ _ => rfl, ⟨rfl, rfl⟩, fun _ => rfl, ⟨rfl, rfl, rfl, rfl⟩, ⟨rfl, rfl, rfl, rfl, rfl, rfl⟩, rfl, rfl, rfl⟩

theorem toNat_pc_skipIf (s : State) (c : Bool) :
    (s.skipIf c).pc.toNat = if c = true then (s.pc.toNat + 2) % 0x1000 else s.pc.toNat := by
  cases c
  · rfl
  · simp [State.skipIf]

theorem onlyI_setI (s : State) (a : Nat) : OnlyI s (s.setI a) :=
  ⟨fun _ _ => rfl, rfl, rfl, fun _ => rfl, ⟨rfl, rfl, rfl, rfl⟩, ⟨rfl, rfl, rfl, rfl, rfl, rfl⟩, rfl, rfl, rfl⟩

theorem takesError_enterError (s : State) (e : Err) (op : Word) :
    TakesError e.kind op e.info.toNat s (s.enterError e op) :=
  ⟨rfl, rfl, rfl, rfl, fun _ _ => rfl, rfl, ⟨rfl, rfl⟩, fun _ => rfl, ⟨rfl, rfl, rfl, rfl⟩, rfl, rfl, rfl, rfl, rfl⟩

theorem takesError_raise (s : State) (e : Err) : TakesError e.kind s.opcode e.info.toNat s (s.raise e) :=
  takesError_enterError s e s.opcode

/-- An address error with an address that fits the 17 bits of `err_addr`. -/
theorem takesError_address (s : State) {a : Nat} (h : a < 0x20000) :
    TakesError .addressOutOfRange s.opcode a s (s.raise (.address a)) := by
  have := takesError_raise s (.address a)
  rwa [Err.address_info h] at this

/-- The lowest address above 0xFFF an access through I can name fits the 17 bits of `err_addr` (R36). -/
theorem State.max_index_lt (s : State) : max s.i.toNat 0x1000 < 0x20000 := by
  have := s.i.isLt; omega

end Sys2Proof.Machine
end

