-- ==== Sys2Proof/Laws/PerInstr.lean ====
section
/-! SUPPORT. Statements for all instructions, one lemma per constructor. -/

namespace Sys2Proof.Laws.EncodesToRow

/-- The word of an instruction matches the instruction's own row of the opcode table: `encode i & mask = match` (R99). -/
def Statement (i : Instr) : Prop := i.row.accepts (encode i) = true

/-- The three masks, and equality, decide whether a row accepts a word. -/
theorem accepts_iff (r : Row) (w : Word) : r.accepts w = true ↔ w &&& r.mask = r.pattern := by
  simp [Row.accepts]

theorem cls : Statement (.cls) := by
  show Row.accepts _ _ = true
  decide

theorem ret : Statement (.ret) := by
  show Row.accepts _ _ = true
  decide

theorem jp (nnn : Addr) : Statement (.jp nnn) :=
  (accepts_iff _ _).mpr (by simp only [Instr.row, encode, and_maskF000, fieldG_encodeFA]; decide)

theorem call (nnn : Addr) : Statement (.call nnn) :=
  (accepts_iff _ _).mpr (by simp only [Instr.row, encode, and_maskF000, fieldG_encodeFA]; decide)

theorem seImm (x : RegNum) (nn : Byte) : Statement (.seImm x nn) :=
  (accepts_iff _ _).mpr (by simp only [Instr.row, encode, and_maskF000, fieldG_encodeFB]; decide)

theorem sneImm (x : RegNum) (nn : Byte) : Statement (.sneImm x nn) :=
  (accepts_iff _ _).mpr (by simp only [Instr.row, encode, and_maskF000, fieldG_encodeFB]; decide)

theorem seReg (x y : RegNum) : Statement (.seReg x y) :=
  (accepts_iff _ _).mpr (by simp only [Instr.row, encode, and_maskF00F, fieldG_encodeFR, fieldN_encodeFR]; decide)

theorem ldImm (x : RegNum) (nn : Byte) : Statement (.ldImm x nn) :=
  (accepts_iff _ _).mpr (by simp only [Instr.row, encode, and_maskF000, fieldG_encodeFB]; decide)

theorem addImm (x : RegNum) (nn : Byte) : Statement (.addImm x nn) :=
  (accepts_iff _ _).mpr (by simp only [Instr.row, encode, and_maskF000, fieldG_encodeFB]; decide)

theorem ldReg (x y : RegNum) : Statement (.ldReg x y) :=
  (accepts_iff _ _).mpr (by simp only [Instr.row, encode, and_maskF00F, fieldG_encodeFR, fieldN_encodeFR]; decide)

theorem orReg (x y : RegNum) : Statement (.orReg x y) :=
  (accepts_iff _ _).mpr (by simp only [Instr.row, encode, and_maskF00F, fieldG_encodeFR, fieldN_encodeFR]; decide)

theorem andReg (x y : RegNum) : Statement (.andReg x y) :=
  (accepts_iff _ _).mpr (by simp only [Instr.row, encode, and_maskF00F, fieldG_encodeFR, fieldN_encodeFR]; decide)

theorem xorReg (x y : RegNum) : Statement (.xorReg x y) :=
  (accepts_iff _ _).mpr (by simp only [Instr.row, encode, and_maskF00F, fieldG_encodeFR, fieldN_encodeFR]; decide)

theorem addReg (x y : RegNum) : Statement (.addReg x y) :=
  (accepts_iff _ _).mpr (by simp only [Instr.row, encode, and_maskF00F, fieldG_encodeFR, fieldN_encodeFR]; decide)

theorem subReg (x y : RegNum) : Statement (.subReg x y) :=
  (accepts_iff _ _).mpr (by simp only [Instr.row, encode, and_maskF00F, fieldG_encodeFR, fieldN_encodeFR]; decide)

theorem shr (x : RegNum) : Statement (.shr x) :=
  (accepts_iff _ _).mpr (by simp only [Instr.row, encode, and_maskF00F, fieldG_encodeFR, fieldN_encodeFR]; decide)

theorem subnReg (x y : RegNum) : Statement (.subnReg x y) :=
  (accepts_iff _ _).mpr (by simp only [Instr.row, encode, and_maskF00F, fieldG_encodeFR, fieldN_encodeFR]; decide)

theorem shl (x : RegNum) : Statement (.shl x) :=
  (accepts_iff _ _).mpr (by simp only [Instr.row, encode, and_maskF00F, fieldG_encodeFR, fieldN_encodeFR]; decide)

theorem sneReg (x y : RegNum) : Statement (.sneReg x y) :=
  (accepts_iff _ _).mpr (by simp only [Instr.row, encode, and_maskF00F, fieldG_encodeFR, fieldN_encodeFR]; decide)

theorem ldI (nnn : Addr) : Statement (.ldI nnn) :=
  (accepts_iff _ _).mpr (by simp only [Instr.row, encode, and_maskF000, fieldG_encodeFA]; decide)

theorem jpV0 (nnn : Addr) : Statement (.jpV0 nnn) :=
  (accepts_iff _ _).mpr (by simp only [Instr.row, encode, and_maskF000, fieldG_encodeFA]; decide)

theorem rnd (x : RegNum) (nn : Byte) : Statement (.rnd x nn) :=
  (accepts_iff _ _).mpr (by simp only [Instr.row, encode, and_maskF000, fieldG_encodeFB]; decide)

theorem drw (x y : RegNum) (n : Nibble) : Statement (.drw x y n) :=
  (accepts_iff _ _).mpr (by simp only [Instr.row, encode, and_maskF000, fieldG_encodeFR]; decide)

theorem skp (x : RegNum) : Statement (.skp x) :=
  (accepts_iff _ _).mpr (by simp only [Instr.row, encode, and_maskF0FF, fieldG_encodeFX, fieldNN_encodeFX]; decide)

theorem sknp (x : RegNum) : Statement (.sknp x) :=
  (accepts_iff _ _).mpr (by simp only [Instr.row, encode, and_maskF0FF, fieldG_encodeFX, fieldNN_encodeFX]; decide)

theorem ldVxDT (x : RegNum) : Statement (.ldVxDT x) :=
  (accepts_iff _ _).mpr (by simp only [Instr.row, encode, and_maskF0FF, fieldG_encodeFX, fieldNN_encodeFX]; decide)

theorem ldVxK (x : RegNum) : Statement (.ldVxK x) :=
  (accepts_iff _ _).mpr (by simp only [Instr.row, encode, and_maskF0FF, fieldG_encodeFX, fieldNN_encodeFX]; decide)

theorem ldDTVx (x : RegNum) : Statement (.ldDTVx x) :=
  (accepts_iff _ _).mpr (by simp only [Instr.row, encode, and_maskF0FF, fieldG_encodeFX, fieldNN_encodeFX]; decide)

theorem ldSTVx (x : RegNum) : Statement (.ldSTVx x) :=
  (accepts_iff _ _).mpr (by simp only [Instr.row, encode, and_maskF0FF, fieldG_encodeFX, fieldNN_encodeFX]; decide)

theorem addI (x : RegNum) : Statement (.addI x) :=
  (accepts_iff _ _).mpr (by simp only [Instr.row, encode, and_maskF0FF, fieldG_encodeFX, fieldNN_encodeFX]; decide)

theorem ldF (x : RegNum) : Statement (.ldF x) :=
  (accepts_iff _ _).mpr (by simp only [Instr.row, encode, and_maskF0FF, fieldG_encodeFX, fieldNN_encodeFX]; decide)

theorem ldB (x : RegNum) : Statement (.ldB x) :=
  (accepts_iff _ _).mpr (by simp only [Instr.row, encode, and_maskF0FF, fieldG_encodeFX, fieldNN_encodeFX]; decide)

theorem stRegs (x : RegNum) : Statement (.stRegs x) :=
  (accepts_iff _ _).mpr (by simp only [Instr.row, encode, and_maskF0FF, fieldG_encodeFX, fieldNN_encodeFX]; decide)

theorem ldRegs (x : RegNum) : Statement (.ldRegs x) :=
  (accepts_iff _ _).mpr (by simp only [Instr.row, encode, and_maskF0FF, fieldG_encodeFX, fieldNN_encodeFX]; decide)

end Sys2Proof.Laws.EncodesToRow
end

