-- ==== Sys2Proof/Tests/Slice0.lean ====
section
/-! SUPPORT. The model's own tests: the WellFormed smoke, decoding of words written out from the spec, single steps with results of spec/95_test_vectors.md (their ids are in the comments), and for each statement that has hypotheses a witness that meets them. -/

namespace Sys2Proof.Tests

open Sys2Proof.Machine

/-! ### Helpers -/

/-- The next state, if the outcome is one. -/
def nextOf : Host.Outcome State Fault Refusal → Option State
  | .next t => some t
  | .fault _ => none
  | .refused _ => none

/-- One step on the state with an instruction placed at PC. -/
def ran (w : Nat) (s : State) : Option State := nextOf (step (s.withFetchWord 16 w))

/-- One step with one event before the engine. -/
def took (e : Event) (s : State) : Option State := nextOf (step (s.setInbox [e]))

/-- Some registers written. -/
def withRegs (s : State) : List (RegNum × Byte) → State
  | [] => s
  | (r, b) :: rs => withRegs (s.setV r b) rs

/-- Reset with some registers written. -/
def regs (rs : List (RegNum × Byte)) : State := withRegs State.reset rs

/-- Bytes written from an address on. -/
def withMem (s : State) (a : Nat) (bs : List Byte) : State := s.setMem (s.mem.putList a bs)

/-- Reset with I, some registers, and bytes at I. -/
def atI (i : Nat) (rs : List (RegNum × Byte)) (bs : List Byte) : State :=
  withMem ((regs rs).setI i) i bs

/-- Waiting for a key with register 3 pending (K5). -/
def waiting : State := (State.reset.setPc 0x202).startWait 3#4

/-- Halted by a stack underflow at 200 (CT7). -/
def halted : State := (State.reset.setPc 0x202).enterError ⟨.stackUnderflow, 0x4E#17⟩ 0x00EE#16

/-! ### WellFormed: each kind of illegal word is refused, a legal one is not (R100) -/

theorem test_wf_group0 : legalWord 0x0000#16 = false ∧ legalWord 0x00E1#16 = false ∧ legalWord 0x0123#16 = false := by decide
theorem test_wf_group5 : legalWord 0x5121#16 = false ∧ legalWord 0x5120#16 = true := by decide
theorem test_wf_group8 : legalWord 0x8128#16 = false ∧ legalWord 0x812D#16 = false ∧ legalWord 0x812F#16 = false ∧ legalWord 0x812E#16 = true := by decide
theorem test_wf_group9 : legalWord 0x9121#16 = false ∧ legalWord 0x9120#16 = true := by decide
theorem test_wf_groupE : legalWord 0xE19F#16 = false ∧ legalWord 0xE1A2#16 = false ∧ legalWord 0xE19E#16 = true := by decide
theorem test_wf_groupF : legalWord 0xF0FF#16 = false ∧ legalWord 0xF000#16 = false ∧ legalWord 0xF01F#16 = false ∧ legalWord 0xF01E#16 = true := by decide
theorem test_wf_reset_memory : State.reset.mem.wf = true := by decide

/-! ### Decode: one word per constructor, written out from the fields of R91 and the table of R99 -/

theorem test_decode_group0 : decode 0b0000000011100000#16 = .ok .cls ∧ decode 0b0000000011101110#16 = .ok .ret := by decide
theorem test_decode_address : decode 0b0001001000110100#16 = .ok (.jp 0x234) ∧ decode 0b0010001100000000#16 = .ok (.call 0x300)
    ∧ decode 0b1010001011110000#16 = .ok (.ldI 0x2F0) ∧ decode 0b1011000100100011#16 = .ok (.jpV0 0x123) := by decide
theorem test_decode_byte : decode 0b0011010100000111#16 = .ok (.seImm 5 0x07) ∧ decode 0b0100010100001000#16 = .ok (.sneImm 5 0x08)
    ∧ decode 0b0110011001000010#16 = .ok (.ldImm 6 0x42) ∧ decode 0b0111001111111111#16 = .ok (.addImm 3 0xFF)
    ∧ decode 0b1100001100001111#16 = .ok (.rnd 3 0x0F) := by decide
theorem test_decode_compare : decode 0b0101000100100000#16 = .ok (.seReg 1 2) ∧ decode 0b1001000100100000#16 = .ok (.sneReg 1 2) := by decide
theorem test_decode_alu_low : decode 0b1000000000010000#16 = .ok (.ldReg 0 1) ∧ decode 0b1000111100010001#16 = .ok (.orReg 0xF 1)
    ∧ decode 0b1000000000010010#16 = .ok (.andReg 0 1) ∧ decode 0b1000001000100011#16 = .ok (.xorReg 2 2)
    ∧ decode 0b1000000011110100#16 = .ok (.addReg 0 0xF) := by decide
theorem test_decode_alu_high : decode 0b1000000000010101#16 = .ok (.subReg 0 1) ∧ decode 0b1000000100100110#16 = .ok (.shr 1)
    ∧ decode 0b1000111100010111#16 = .ok (.subnReg 0xF 1) ∧ decode 0b1000010011111110#16 = .ok (.shl 4) := by decide
theorem test_decode_draw : decode 0b1101000000010101#16 = .ok (.drw 0 1 5) ∧ decode 0b1101000000010000#16 = .ok (.drw 0 1 0) := by decide
theorem test_decode_keys : decode 0b1110000010011110#16 = .ok (.skp 0) ∧ decode 0b1110000010100001#16 = .ok (.sknp 0)
    ∧ decode 0b1111001100001010#16 = .ok (.ldVxK 3) := by decide
theorem test_decode_timers : decode 0b1111010100000111#16 = .ok (.ldVxDT 5) ∧ decode 0b1111000100010101#16 = .ok (.ldDTVx 1)
    ∧ decode 0b1111001000011000#16 = .ok (.ldSTVx 2) := by decide
theorem test_decode_index : decode 0b1111001000011110#16 = .ok (.addI 2) ∧ decode 0b1111001000101001#16 = .ok (.ldF 2)
    ∧ decode 0b1111000000110011#16 = .ok (.ldB 0) ∧ decode 0b1111001001010101#16 = .ok (.stRegs 2)
    ∧ decode 0b1111001001100101#16 = .ok (.ldRegs 2) := by decide
theorem test_decode_illegal : decode 0x0123#16 = .error (.unrecognizedOpcode 0x0123) ∧ decodeTableWord 16 0xF0FF = none := by decide
theorem test_decode_bytes_big_endian : decodeBytes [0x60, 0x05, 0x61] = .ok (.ldImm 0 0x05, [0x61]) ∧ decodeTableWord 16 0x8126 = some (.shr 1) := by decide

/-! ### Register loads and arithmetic (95_test_vectors.md 2.3) -/

/-- A1. -/
theorem test_ldImm : (ran 0x6642 (regs [(6, 0x99)])).map (fun t => (t.getV 6, t.pc)) = some (0x42, 0x202) := by decide
/-- A4. -/
theorem test_addImm_wraps : (ran 0x73FF (regs [(3, 0x05), (0xF, 0x01)])).map (fun t => (t.getV 3, t.getV 0xF)) = some (0x04, 0x01) := by decide
/-- A6. -/
theorem test_ldReg : (ran 0x80F0 (regs [(0xF, 0x01)])).map (fun t => t.getV 0) = some 0x01 := by decide
/-- A7. -/
theorem test_or : (ran 0x8011 (regs [(0, 0x0F), (1, 0xF0), (0xF, 0x07)])).map (fun t => (t.getV 0, t.getV 0xF)) = some (0xFF, 0x07) := by decide
/-- A8. -/
theorem test_and : (ran 0x8012 (regs [(0, 0x3C), (1, 0x0F)])).map (fun t => t.getV 0) = some 0x0C := by decide
/-- A9. -/
theorem test_xor : (ran 0x8013 (regs [(0, 0xFF), (1, 0x0F)])).map (fun t => t.getV 0) = some 0xF0 := by decide
/-- S4. -/
theorem test_add_carry : (ran 0x8014 (regs [(0, 0xFF), (1, 0x01)])).map (fun t => (t.getV 0, t.getV 0xF)) = some (0x00, 0x01) := by decide
/-- A15. -/
theorem test_add_vf : (ran 0x8F14 (regs [(0xF, 0xFF), (1, 0x01)])).map (fun t => t.getV 0xF) = some 0x01 := by decide
/-- S5. -/
theorem test_sub_borrow : (ran 0x8015 (regs [(0, 0x01), (1, 0x02)])).map (fun t => (t.getV 0, t.getV 0xF)) = some (0xFF, 0x00) := by decide
/-- A18. -/
theorem test_sub_equal : (ran 0x8015 (regs [(0, 0x05), (1, 0x05), (0xF, 0x01)])).map (fun t => (t.getV 0, t.getV 0xF)) = some (0x00, 0x00) := by decide
/-- A24. -/
theorem test_shr : (ran 0x82E6 (regs [(2, 0xFF)])).map (fun t => (t.getV 2, t.getV 0xF)) = some (0x7F, 0x01) := by decide
/-- A26. -/
theorem test_shr_vf : (ran 0x8F06 (regs [(0xF, 0x02)])).map (fun t => t.getV 0xF) = some 0x00 := by decide
/-- A27. -/
theorem test_subn : (ran 0x8017 (regs [(0, 0x03), (1, 0x05)])).map (fun t => (t.getV 0, t.getV 0xF)) = some (0x02, 0x01) := by decide
/-- A29. -/
theorem test_subn_borrow : (ran 0x8017 (regs [(0, 0x02), (1, 0x01)])).map (fun t => (t.getV 0, t.getV 0xF)) = some (0xFF, 0x00) := by decide
/-- A33. -/
theorem test_shl : (ran 0x84FE (regs [(4, 0x80)])).map (fun t => (t.getV 4, t.getV 0xF)) = some (0x00, 0x01) := by decide
/-- A32. -/
theorem test_shl_no_carry : (ran 0x840E (regs [(4, 0x7F), (0xF, 0x01)])).map (fun t => (t.getV 4, t.getV 0xF)) = some (0xFE, 0x00) := by decide
/-- A36: whatever byte is drawn. -/
theorem test_rnd_mask_zero : ∃ t, exec (.rnd 3 0x00) (regs [(3, 0x55)]) = .next t ∧ t.getV 3 = 0x00#8 :=
  ⟨_, rfl, by show Config.rnd 0 &&& 0x00#8 = 0x00#8; exact BitVec.and_zero⟩
/-- A37: the whole drawn byte. -/
theorem test_rnd_mask_full : ∃ t, exec (.rnd 3 0xFF) State.reset = .next t ∧ t.getV 3 = Config.rnd 0 :=
  ⟨_, rfl, by show Config.rnd 0 &&& 0xFF#8 = Config.rnd 0; exact BitVec.and_allOnes⟩

/-! ### Control transfer (2.4) -/

/-- CT1. -/
theorem test_jp : (ran 0x1234 State.reset).map (fun t => t.pc) = some 0x234 := by decide
/-- CT3. -/
theorem test_call : (ran 0x2300 (State.reset.setPc 0x204)).map (fun t => (t.mem.getList 0x50 2, t.sp, t.pc)) = some ([0x02, 0x06], 0x50, 0x300) := by decide
/-- CT6. -/
theorem test_call_overflow : (ran 0x2400 (State.reset.setSp 0x6C)).map (fun t => (t.errKind, t.errOpcode, t.errAddr, t.sp, t.pc))
    = some (.stackOverflow, 0x2400, 0x6C, 0x6C, 0x202) := by decide
/-- CT8. -/
theorem test_ret : (ran 0x00EE (withMem ((State.reset.setPc 0x300).setSp 0x50) 0x50 [0xF2, 0x34])).map (fun t => (t.pc, t.sp, t.mem.get 0x50)) = some (0x234, 0x4E, 0xF2) := by decide
/-- CT7. -/
theorem test_ret_underflow : (ran 0x00EE State.reset).map (fun t => (t.estate, t.errKind, t.errOpcode, t.errAddr, t.pc))
    = some (.halted, .stackUnderflow, 0x00EE, 0x4E, 0x202) := by decide
/-- CT12. -/
theorem test_jpV0 : (ran 0xBF80 (regs [(0, 0xFF)])).map (fun t => t.pc) = some 0x07F := by decide
/-- CT13. -/
theorem test_jpV0_not_v1 : (ran 0xB100 (regs [(1, 0x22)])).map (fun t => t.pc) = some 0x100 := by decide
/-- CT14. -/
theorem test_seImm : (ran 0x3507 (regs [(5, 0x07)])).map (fun t => t.pc) = some 0x204 := by decide
/-- CT20. -/
theorem test_seImm_wraps : (ran 0x3000 (State.reset.setPc 0xFFC)).map (fun t => t.pc) = some 0x000 := by decide
/-- CT15. -/
theorem test_sneImm : (ran 0x4508 (regs [(5, 0x07)])).map (fun t => t.pc) = some 0x204 := by decide
/-- CT15. -/
theorem test_sneImm_equal : (ran 0x4507 (regs [(5, 0x07)])).map (fun t => t.pc) = some 0x202 := by decide
/-- CT16. -/
theorem test_seReg : (ran 0x5120 (regs [(1, 0x33), (2, 0x33)])).map (fun t => t.pc) = some 0x204 := by decide
/-- CT18. -/
theorem test_sneReg : (ran 0x9120 (regs [(1, 0x33), (2, 0x34)])).map (fun t => t.pc) = some 0x204 := by decide
/-- CT19. -/
theorem test_sneReg_same : (ran 0x9110 (regs [(1, 0x33)])).map (fun t => t.pc) = some 0x202 := by decide

/-! ### Display (2.5) -/

/-- DR12. -/
theorem test_cls : (ran 0x00E0 (State.reset.setDisp (Framebuffer.blank.toggle 3 5))).map (fun t => t.disp.cell 3 5) = some false := by decide
/-- DR1. -/
theorem test_drw : (ran 0xD015 ((regs [(0, 0x05), (1, 0x03)]).setI 0x32)).map
    (fun t => (t.disp.cell 3 5, t.disp.cell 4 6, t.disp.cell 7 8, t.disp.cell 8 5, t.getV 0xF)) = some (true, false, true, false, 0x00) := by decide
/-- DR8: a 0 bit does not clear. -/
theorem test_drw_zero_bit : (ran 0xD011 ((atI 0x300 [] [0x40]).setDisp (Framebuffer.blank.toggle 0 0))).map
    (fun t => (t.disp.cell 0 0, t.disp.cell 0 1, t.getV 0xF)) = some (true, true, 0x00) := by decide

/-! ### Keypad and timers (2.6) -/

/-- K3. -/
theorem test_skp : (ran 0xE09E ((regs [(0, 0x1A)]).setKey 0x0A true)).map (fun t => t.pc) = some 0x204 := by decide
/-- K2. -/
theorem test_skp_up : (ran 0xE09E (regs [(0, 0x07)])).map (fun t => t.pc) = some 0x202 := by decide
/-- K2. -/
theorem test_sknp : (ran 0xE0A1 (regs [(0, 0x07)])).map (fun t => t.pc) = some 0x204 := by decide
/-- K4. -/
theorem test_ldVxDT : (ran 0xF507 (State.reset.setDt 0x3C)).map (fun t => t.getV 5) = some 0x3C := by decide
/-- K5. -/
theorem test_ldVxK : (ran 0xF30A State.reset).map (fun t => (t.pc, t.estate, t.waitX)) = some (0x202, .waitingForKey, 3) := by decide
/-- K13. -/
theorem test_ldDTVx : (ran 0xF115 (regs [(1, 0x3C)])).map (fun t => (t.dt, t.st)) = some (0x3C, 0x00) := by decide
/-- K14. -/
theorem test_ldSTVx : (ran 0xF218 (regs [(2, 0x05)])).map (fun t => (t.dt, t.st)) = some (0x00, 0x05) := by decide
/-- K6: a step while waiting changes nothing. -/
theorem test_wait_step : nextOf (step waiting) = some waiting := by decide
/-- K7. -/
theorem test_key_up_waiting : (took (.key 0x04 false) (waiting.setKey 0x04 true)).map (fun t => (t.keys[4], t.estate)) = some (false, .waitingForKey) := by decide
/-- K8. -/
theorem test_key_down_waiting : (took (.key 0x09 true) waiting).map (fun t => (t.keys[9], t.getV 3, t.estate, t.pc)) = some (true, 0x09, .ready, 0x202) := by decide
/-- K12. -/
theorem test_key_down_ready : (took (.key 0x02 true) State.reset).map (fun t => (t.keys[2], t.v, t.pc)) = some (true, State.reset.v, 0x200) := by decide
/-- K15. -/
theorem test_tick : (took .tick ((State.reset.setDt 0x3C).setSt 0x01)).map (fun t => (t.dt, t.st)) = some (0x3B, 0x00) := by decide
/-- K16. -/
theorem test_tick_floor : (took .tick State.reset).map (fun t => (t.dt, t.st)) = some (0x00, 0x00) := by decide
/-- K17. -/
theorem test_tick_waiting : (took .tick (waiting.setDt 0x02)).map (fun t => t.dt) = some 0x01 := by decide
/-- K18. -/
theorem test_tick_halted : (took .tick (halted.setDt 0x02)).map (fun t => t.dt) = some 0x02 := by decide

/-! ### Index register and block memory (2.7) -/

/-- I1. -/
theorem test_ldI : (ran 0xA2F0 (State.reset.setI 0x1234)).map (fun t => t.i) = some 0x02F0 := by decide
/-- I3. -/
theorem test_addI_not_masked : (ran 0xF01E ((regs [(0, 0x01)]).setI 0x0FFF)).map (fun t => (t.i, t.getV 0xF)) = some (0x1000, 0x00) := by decide
/-- I4. -/
theorem test_addI_wraps : (ran 0xF01E ((regs [(0, 0x02)]).setI 0xFFFF)).map (fun t => t.i) = some 0x0001 := by decide
/-- I6. -/
theorem test_ldF : (ran 0xF229 (regs [(2, 0x1A)])).map (fun t => t.i) = some 0x0032 := by decide
/-- I8. -/
theorem test_ldB : (ran 0xF033 ((regs [(0, 0xFE)]).setI 0x300)).map (fun t => (t.mem.getList 0x300 4, t.i)) = some ([0x02, 0x05, 0x04, 0x00], 0x0300) := by decide
/-- I10. -/
theorem test_ldB_out : (ran 0xF033 (atI 0xFFE [(0, 0x12)] [0xAA, 0xBB])).map
    (fun t => (t.errKind, t.errOpcode, t.errAddr, t.mem.getList 0xFFE 2)) = some (.addressOutOfRange, 0xF033, 0x1000, [0xAA, 0xBB]) := by decide
/-- I11. -/
theorem test_stRegs : (ran 0xF255 (atI 0x400 [(0, 0x01), (1, 0x02), (2, 0x03), (3, 0x04)] [0, 0, 0, 0xEE])).map
    (fun t => (t.mem.getList 0x400 4, t.i)) = some ([0x01, 0x02, 0x03, 0xEE], 0x0400) := by decide
/-- I14. -/
theorem test_stRegs_out : (ran 0xF355 ((regs [(0, 0x01)]).setI 0xFFD)).map (fun t => (t.errKind, t.errAddr, t.mem.get 0xFFD)) = some (.addressOutOfRange, 0x1000, 0x00) := by decide
/-- I16. -/
theorem test_ldRegs : (ran 0xF265 (atI 0x300 [(3, 0x99)] [0x02, 0x05, 0x04])).map
    (fun t => (t.getV 0, t.getV 1, t.getV 2, t.getV 3, t.i)) = some (0x02, 0x05, 0x04, 0x99, 0x0300) := by decide
/-- I17. -/
theorem test_ldRegs_out : (ran 0xF065 ((regs [(0, 0x42)]).setI 0x1000)).map (fun t => (t.errKind, t.errAddr, t.getV 0)) = some (.addressOutOfRange, 0x1000, 0x42) := by decide

/-! ### Memory, errors, events, reset (2.1, 2.8) -/

/-- S1, M4: big-endian, any alignment. -/
theorem test_write_word : (match State.reset.writeWord 0x301 0xBEEF#16 with | .ok t => t.mem.getList 0x300 4 | .error _ => []) = [0x00, 0xBE, 0xEF, 0x00] := by decide
/-- M6: font bytes are not protected. -/
theorem test_write_font : (match State.reset.writeByte 0x000 0x00 with | .ok t => (t.mem.get 0, t.mem.wf) | .error _ => (0xF0, false)) = (0x00, true) := by decide
/-- X1. -/
theorem test_fetch_top : (nextOf (step ((State.reset.setPc 0xFFF)))).map (fun t => (t.estate, t.errKind, t.errOpcode, t.errAddr, t.pc))
    = some (.halted, .addressOutOfRange, 0x0000, 0x1000, 0xFFF) := by decide
/-- X2: what the first step after reset does when no program is loaded. -/
theorem test_reset_step : (nextOf (step State.reset)).map (fun t => (t.estate, t.errKind, t.errOpcode, t.errAddr, t.pc))
    = some (.halted, .unrecognizedOpcode, 0x0000, 0x200, 0x202) := by decide
/-- X3. -/
theorem test_execute_after_reset : (took .execute State.reset).map (fun t => (t.errKind, t.errOpcode, t.errAddr)) = some (.unrecognizedOpcode, 0x0000, 0x1FE) := by decide
/-- X4. -/
theorem test_halted_events : nextOf (step halted) = some halted ∧ took .fetch halted = some halted ∧ took .execute halted = some halted := by decide
/-- X5. -/
theorem test_reset_halted : took .reset halted = some State.reset := by
  show some (halted.setInbox []).resetBlock = _
  rw [State.resetBlock_default rfl]; rfl
/-- S9: a reload from any state gives the same state. -/
theorem test_reload_same : took (.loadRom [0x60, 0x12, 0x61, 0x08]) halted = took (.loadRom [0x60, 0x12, 0x61, 0x08]) waiting := by
  show some ((halted.setInbox []).resetBlock.loadFrom progBase _) = some ((waiting.setInbox []).resetBlock.loadFrom progBase _)
  rw [State.resetBlock_default rfl, State.resetBlock_default rfl]; rfl
/-- P6's ROM: the bytes at 200. -/
theorem test_load_rom : (took (.loadRom [0x60, 0x12, 0x61, 0x08]) halted).map (fun t => (t.estate, t.pc, t.mem.getList 0x200 5))
    = some (.ready, 0x200, [0x60, 0x12, 0x61, 0x08, 0x00]) := by
  show Option.map _ (some ((halted.setInbox []).resetBlock.loadFrom progBase _)) = _
  rw [State.resetBlock_default rfl]; decide
/-- R8: a machine with another font shows it after reset, glyph 1 at 005. -/
theorem test_other_font (f : Font) (h : f[5] = 0x42) : (State.resetWith f).mem.get 5 = 0x42 := by
  rw [State.get_resetWith]; simpa using h

/-! ### Witnesses: hypotheses that can be met, at the edges of their ranges -/

theorem test_witness_EncodeOfDecodeRebuildsTheWord :
    decode 0x8014#16 = .ok (.addReg 0 1) ∧ decode 0x8126#16 = .ok (.shr 1) ∧ encode (.shr 1) = 0x8126#16 &&& 0xFF0F#16 := by decide
theorem test_witness_DecoderFollowsTheOpcodeTable :
    decode 0x6642#16 = .ok (.ldImm 6 0x42) ∧ legalWord 0x5121#16 = false := by decide
theorem test_witness_NoWordMatchesTwoRows :
    ((Instr.row (.ldB 0)) ∈ opcodeTable ∧ (Instr.row (.ldB 0)).accepts 0xF033#16 = true) := by decide
theorem test_witness_StepRunsTheDecodedInstruction (s : State) (h : s = withMem (State.reset.setPc 0xFFE) 0xFFE [0x12, 0x34]) :
    s.inbox = [] ∧ s.estate = .ready ∧ s.pc.toNat ≤ 0xFFE ∧
      decodeBytes [s.mem.get s.pc.toNat, s.mem.get (s.pc.toNat + 1)] = .ok (.jp 0x234, []) := by subst h; decide
theorem test_witness_FullStepIsFetchThenExecute :
    (State.reset.inbox = [] ∧ State.reset.estate = .ready) ∧ (halted.inbox = [] ∧ halted.estate ≠ .ready) ∧
    (waiting.inbox = [] ∧ waiting.estate ≠ .ready) := by decide
/-- One state for each clause: a fetch at the last word, an execute of a legal latch, of an illegal one, and both half-steps in Halted. -/
theorem test_witness_HalfStepsFetchAndExecuteTheLatch :
    (((State.reset.setPc 0xFFE).setInbox [.fetch]).inbox = [.fetch] ∧ (State.reset.setPc 0xFFE).estate = .ready ∧ (State.reset.setPc 0xFFE).pc.toNat ≤ 0xFFE) ∧
    (((State.reset.latch 0x1234#16).setInbox [.execute]).inbox = [.execute] ∧ decode (State.reset.latch 0x1234#16).opcode = .ok (.jp 0x234)) ∧
    ((State.reset.setInbox [.execute]).inbox = [.execute] ∧ State.reset.estate = .ready ∧ legalWord State.reset.opcode = false) ∧
    ((halted.setInbox [.fetch]).inbox = [.fetch] ∧ (halted.setInbox [.execute]).inbox = [.execute] ∧ halted.estate ≠ .ready) := by decide
theorem test_witness_FetchAtTopOfMemoryHalts :
    (State.reset.setPc 0xFFF).inbox = [] ∧ (State.reset.setPc 0xFFF).estate = .ready ∧ (State.reset.setPc 0xFFF).pc.toNat = 0xFFF := by decide
/-- Reset itself, and an illegal word in the last two bytes. -/
theorem test_witness_IllegalWordHaltsAfterItsFetch :
    (State.reset.inbox = [] ∧ State.reset.estate = .ready ∧ State.reset.pc.toNat ≤ 0xFFE ∧
      legalWord (joinBytes (State.reset.mem.get 0x200) (State.reset.mem.get 0x201)) = false) ∧
    ((State.reset.setPc 0xFFE).pc.toNat ≤ 0xFFE ∧ legalWord (joinBytes (State.reset.mem.get 0xFFE) (State.reset.mem.get 0xFFF)) = false) := by decide
theorem test_witness_ByteAccessesReadAndWriteOneByte :
    State.reset.readByte 0xFFF = .ok 0x00#8 ∧ State.reset.readByte 0x1000 = .error ⟨.addressOutOfRange, 0x1000⟩ := by decide
theorem test_witness_WordAccessesAreBigEndian :
    State.reset.readWord 0xFFE = .ok 0x0000#16 ∧ State.reset.readWord 0xFFF = .error ⟨.addressOutOfRange, 0x1000⟩ ∧
    State.reset.readWord 0x1000 = .error ⟨.addressOutOfRange, 0x1000⟩ ∧ State.reset.readWord 0x1001 = .error ⟨.addressOutOfRange, 0x1001⟩ := by decide
theorem test_witness_PushAndPopUseTheMemoryStack :
    ((State.reset.setSp 0x6A).sp.toNat < 0x6C ∧ (State.reset.setSp 0x6A).StackOk ∧ 0x4E ≤ (State.reset.setSp 0x6A).sp.toNat) ∧
    0x6C ≤ (State.reset.setSp 0x6C).sp.toNat ∧ 0x4E < (State.reset.setSp 0x50).sp.toNat ∧ State.reset.sp.toNat ≤ 0x4E := by decide
theorem test_witness_AddWritesSumThenCarry : (0#4 : RegNum) ≠ 0xF#4 := by decide
theorem test_witness_SubtractionsWriteDifferenceThenStrictFlag : (0xE#4 : RegNum) ≠ 0xF#4 := by decide
theorem test_witness_ShiftsMoveOneBitIntoTheFlag : (4#4 : RegNum) ≠ 0xF#4 := by decide
theorem test_witness_RandomByteIsMasked : (0x00#8 : Byte) = 0x00#8 := by decide
theorem test_witness_CallPushesTheReturnAddress :
    (State.reset.setSp 0x6A).sp.toNat < 0x6C ∧ 0x6C ≤ (State.reset.setSp 0x6C).sp.toNat := by decide
theorem test_witness_ReturnPopsTheReturnAddress :
    0x4E < (State.reset.setSp 0x50).sp.toNat ∧ (State.reset.setSp 0x4E).sp.toNat ≤ 0x4E := by decide
theorem test_witness_CallThenReturnComesBack :
    (0x4E ≤ State.reset.sp.toNat ∧ State.reset.sp.toNat < 0x6C) ∧
    (0x4E ≤ (State.reset.setSp 0x6A).sp.toNat ∧ (State.reset.setSp 0x6A).sp.toNat < 0x6C) := by decide
/-- A key number from a register whose high nibble is set. -/
theorem test_witness_KeySkipsTestTheLatch : (0xF#4 : RegNum).toNat = ((regs [(0, 0xFF)]).getV 0).toNat % 16 := by decide
/-- Inside: no rows with I out of memory, and the last byte at 0xFFF. Outside: one byte past it. -/
theorem test_witness_DrawTogglesTheSpriteAndReportsCollision :
    ((0#4 : Nibble).toNat = 0 ∨ (State.reset.setI 0xFFFF).i.toNat + (0#4 : Nibble).toNat ≤ 0x1000) ∧
    ((3#4 : Nibble).toNat = 0 ∨ (State.reset.setI 0xFFD).i.toNat + (3#4 : Nibble).toNat ≤ 0x1000) ∧
    ((3#4 : Nibble).toNat ≠ 0 ∧ 0x1000 < (State.reset.setI 0xFFE).i.toNat + (3#4 : Nibble).toNat) := by decide
/-- DR3: the sprite clipped at column 63; DR2: a second draw that collides; both clauses of the flag are met. -/
theorem test_witness_draw_flag_clauses :
    (nextOf (exec (.drw 0 1 1) (atI 0x300 [(0, 0x3C)] [0xFF]))).map (fun t => (t.disp.cell 0 63, t.disp.cell 0 0, t.getV 0xF)) = some (true, false, 0x00) ∧
    (nextOf (exec (.drw 0 1 1) ((atI 0x300 [] [0x80]).setDisp (Framebuffer.blank.toggle 0 0)))).map (fun t => (t.disp.cell 0 0, t.getV 0xF)) = some (false, 0x01) := by decide
/-- A blank display and a glyph that changes it. -/
theorem test_witness_DrawingTwiceErases :
    ((0#4 : RegNum) ≠ 0xF#4 ∧ (1#4 : RegNum) ≠ 0xF#4 ∧ ((5#4 : Nibble).toNat = 0 ∨ State.reset.i.toNat + (5#4 : Nibble).toNat ≤ 0x1000)) ∧
    (∀ p q, State.reset.disp.cell p q = false) ∧
    (nextOf (exec (.drw 0 1 5) State.reset)).map (fun t => t.disp.cell 0 0) = some true := by
  refine ⟨by decide, fun p q => ?_, by decide⟩
  simp [State.reset, Framebuffer.cell, Framebuffer.blank]
theorem test_witness_KeyDownEndsTheWait :
    (waiting.setInbox [.key 0xF9 true]).inbox = [.key 0xF9 true] ∧ waiting.estate = .waitingForKey ∧
    (9#4 : Nibble).toNat = (0xF9#8 : Byte).toNat % 16 ∧ (waiting.setInbox [.key 0x00 false]).inbox = [.key 0x00 false] := by decide
theorem test_witness_OtherKeyEventsOnlyUpdateTheLatch :
    (State.reset.setInbox [.key 0x0F true]).inbox = [.key 0x0F true] ∧ State.reset.estate ≠ .waitingForKey ∧
    halted.estate ≠ .waitingForKey ∧ (0xF#4 : Nibble).toNat = (0x0F#8 : Byte).toNat % 16 := by decide
theorem test_witness_TickCountsTheTimersDown :
    (State.reset.setInbox [.tick]).inbox = [.tick] ∧ State.reset.estate ≠ .halted ∧ halted.estate = .halted := by decide
/-- The digits end at 0xFFF, begin below it and cross it, and begin above it. -/
theorem test_witness_DecimalDigitsAreStored :
    (State.reset.setI 0xFFD).i.toNat + 2 ≤ 0xFFF ∧ 0xFFF < (State.reset.setI 0xFFE).i.toNat + 2 ∧
    0xFFF < (State.reset.setI 0xFFFF).i.toNat + 2 := by decide
/-- I15 and I14: three registers that just fit, and four that do not; and the largest I. -/
theorem test_witness_RegisterBlockIsStoredInclusive :
    (State.reset.setI 0xFFD).i.toNat + (2#4 : RegNum).toNat ≤ 0xFFF ∧ 0xFFF < (State.reset.setI 0xFFD).i.toNat + (3#4 : RegNum).toNat ∧
    0xFFF < (State.reset.setI 0xFFFF).i.toNat + (0xF#4 : RegNum).toNat := by decide
theorem test_witness_RegisterBlockIsLoadedInclusive :
    (State.reset.setI 0xFFF).i.toNat + (0#4 : RegNum).toNat ≤ 0xFFF ∧ 0xFFF < (State.reset.setI 0x1000).i.toNat + (0#4 : RegNum).toNat := by decide
/-- The store of 16 registers at the top of memory, and its own result as the later state. -/
theorem test_witness_StoredBlockIsLoadedBack :
    (State.reset.setI 0xFF0).i.toNat + (0xF#4 : RegNum).toNat ≤ 0xFFF ∧
    ∃ t, exec (.stRegs 0xF) (State.reset.setI 0xFF0) = .next t ∧ t.i = (State.reset.setI 0xFF0).i ∧ t.mem = t.mem :=
  ⟨by decide, _, rfl, by decide, rfl⟩
/-- The word at PC overwritten by V0 and V1. -/
theorem test_witness_StoreIsSeenByTheNextFetch :
    (State.reset.setI 0x200).inbox = [] ∧ (State.reset.setI 0x200).estate = .ready ∧
    (State.reset.setI 0x200).i.toNat + (1#4 : RegNum).toNat ≤ 0xFFF ∧ (0#4 : RegNum).toNat < (1#4 : RegNum).toNat ∧
    (State.reset.setI 0x200).pc.toNat = (State.reset.setI 0x200).i.toNat + (0#4 : RegNum).toNat := by decide
theorem test_witness_InstructionErrorsArePrecise :
    State.reset.estate ≠ .halted ∧ ∃ t, exec .ret State.reset = .next t ∧ t.estate = .halted := ⟨by decide, _, rfl, by decide⟩
/-- For each clause an instruction that changes the state it names. -/
theorem test_witness_StateIsWrittenOnlyByItsInstructions :
    (∃ t, exec (.ldImm 1 0x42) State.reset = .next t ∧ t.getV 1 ≠ State.reset.getV 1) ∧
    (∃ t, exec (.jp 0x300) State.reset = .next t ∧ t.pc ≠ State.reset.pc) ∧
    (∃ t, exec (.ldI 0x300) State.reset = .next t ∧ t.i ≠ State.reset.i) ∧
    (∃ t, exec (.call 0x300) State.reset = .next t ∧ t.sp ≠ State.reset.sp ∧ t.mem.get 0x50 ≠ State.reset.mem.get 0x50) ∧
    (∃ t, exec (.drw 0 0 1) State.reset = .next t ∧ t.disp ≠ State.reset.disp) ∧
    (∃ t, exec (.ldDTVx 1) (regs [(1, 0x05)]) = .next t ∧ t.dt ≠ (regs [(1, 0x05)]).dt) ∧
    (∃ t, exec (.ldSTVx 1) (regs [(1, 0x05)]) = .next t ∧ t.st ≠ (regs [(1, 0x05)]).st) ∧
    (∃ t, exec (.ldVxK 1) State.reset = .next t ∧ t.waitX ≠ State.reset.waitX) ∧
    (∃ t, exec (.rnd 1 0x0F) State.reset = .next t ∧ t.draws ≠ State.reset.draws) ∧
    (∃ t, exec (.ldVxK 1) State.reset = .next t ∧ t.estate ≠ State.reset.estate) ∧
    (∃ t, exec .ret State.reset = .next t ∧ t.errKind ≠ State.reset.errKind) :=
  ⟨⟨_, rfl, by decide⟩, ⟨_, rfl, by decide⟩, ⟨_, rfl, by decide⟩, ⟨_, rfl, by decide⟩, ⟨_, rfl, by decide⟩,
    ⟨_, rfl, by decide⟩, ⟨_, rfl, by decide⟩, ⟨_, rfl, by decide⟩, ⟨_, rfl, by decide⟩, ⟨_, rfl, by decide⟩, ⟨_, rfl, by decide⟩⟩
theorem test_witness_OnlyResetOrLoadLeavesHalted :
    halted.estate = .halted ∧
    (∃ t, step (halted.setInbox [.reset]) = .next t ∧ t.estate ≠ .halted) ∧
    (∃ t, step (halted.setInbox [.loadRom [0x12, 0x00]]) = .next t ∧ t.estate ≠ .halted) :=
  ⟨by decide, ⟨_, rfl, by decide⟩, ⟨_, rfl, by decide⟩⟩
/-- K19: a key event in Halted changes the latch; and the empty inbox. -/
theorem test_witness_HaltedKeepsEverythingButTheLatch :
    (∃ t, step (halted.setInbox [.key 0x03 true]) = .next t ∧ t.keys ≠ halted.keys) ∧
    (∃ t, step halted = .next t) ∧ halted.estate = .halted ∧
    (∀ es, (halted.setInbox [.key 0x03 true]).inbox ≠ .reset :: es) ∧
    (∀ rom es, (halted.setInbox [.key 0x03 true]).inbox ≠ .loadRom rom :: es) :=
  ⟨⟨_, rfl, by decide⟩, ⟨_, rfl⟩, by decide, by simp, by simp⟩
theorem test_witness_OnlyKeyDownResetOrLoadLeavesTheWait :
    waiting.estate = .waitingForKey ∧ (∃ t, step (waiting.setInbox [.key 0x09 true]) = .next t ∧ t.estate ≠ .waitingForKey) ∧
    (∃ t, step (waiting.setInbox [.reset]) = .next t ∧ t.estate ≠ .waitingForKey) :=
  ⟨by decide, ⟨_, rfl, by decide⟩, ⟨_, rfl, by decide⟩⟩
theorem test_witness_ResetStateHasTheSpecValues : 0x050 ≤ 0xFFF ∧ State.reset.mem.get 0x050 = 0x00#8 ∧ State.reset.mem.get 0x04F = 0x80#8 := by decide
theorem test_witness_ResetIsAcceptedInEveryStateAndIdempotent :
    (waiting.setInbox [.reset]).inbox = [.reset] ∧ (halted.setInbox [.reset, .tick]).inbox = [.reset, .tick] := by decide
/-- X6 and X7: the longest ROM that fits, and one byte more; the byte at offset 0xDFF lands at 0xFFF. -/
theorem test_witness_RomLoadCopiesVerbatimFrom200 :
    (State.reset.setInbox [.loadRom (List.replicate 0xE00 0x01#8)]).inbox = [.loadRom (List.replicate 0xE00 0x01#8)] ∧
    (List.replicate 0xE00 0x01#8).length ≤ 0xE00 ∧ 0xE00 < (List.replicate 0xE01 0x01#8).length ∧ 0x200 + 0xDFF ≤ 0xFFF ∧
    (0xFFF < 0x1000 ∨ 0x1000 < 0x200) := by
  refine ⟨rfl, ?_, ?_, by decide, by decide⟩ <;> simp only [List.length_replicate] <;> decide
theorem test_witness_ParkedEngineStays : (withMem State.reset 0x200 [0x12, 0x00]).inbox = [] ∧ (withMem State.reset 0x200 [0x12, 0x00]).Parked := by decide
theorem test_witness_NoStepDependsOnTheSoundTimer : ({ State.reset with st := 0x05#8 } : State).inbox = [] := by decide
theorem test_witness_SnapshotShowsTheState :
    0xFFF + 1 ≤ 0x1000 ∧ 0x1000 + 0 ≤ 0x1000 ∧ 0x1000 < 0xFFF + 2 ∧ (State.reset.setInbox [.snapshot 0xFFF 1]).inbox = [.snapshot 0xFFF 1] := by decide
/-- A ROM of the greatest length, a snapshot slice at each side of the limit, and a clock that answers a next state. -/
theorem test_witness_ClockOrderAndFramebufferPort :
    (List.replicate 0xE00 0x01#8).length ≤ 0xE00 ∧ 0xFFF + 1 ≤ 0x1000 ∧ 0x1000 < 0xFFF + 2 ∧
    (∃ t, State.reset.clock { rst := false, load := none, key := some (3, true), engine := none, tick := true, snapshot := none } = .next t) := by
  refine ⟨?_, by decide, by decide, _, rfl⟩
  simp only [List.length_replicate]; decide
theorem test_witness_clock_ready_and_port :
    State.reset.estate = .ready ∧ 31 < 32 ∧ 63 < 64 ∧ (State.reset.setDisp (Framebuffer.blank.toggle 31 63)).portFb 2047 = true := by decide
theorem test_witness_EveryStepKeepsTheInvariant :
    State.reset.Inv ∧ (∃ t, step State.reset = .next t) ∧ halted.Inv ∧ waiting.Inv ∧
    (∃ t, step (waiting.setInbox [.key 0x09 true]) = .next t) := ⟨by decide, ⟨_, rfl⟩, by decide, by decide, ⟨_, rfl⟩⟩

/-- A step that runs, a reset event, the last font byte and the first byte above it. -/
theorem test_witness_FontIsAParameterOfTheMachine :
    (∃ t, step State.reset = .next t) ∧ (State.reset.setInbox [.reset]).inbox = [.reset] ∧ 79 < 80 ∧ 80 ≤ 80 := ⟨⟨_, rfl⟩, by decide⟩
theorem test_witness_OutputPortsShowTheState : 2047 < 2048 ∧ (State.reset.setKey 0x0A true).portKeys 0xA = true ∧ State.reset.portMem 0xFFF = 0x00#8 := by decide

end Sys2Proof.Tests
end

namespace Sys2Proof

/-- Bytes decode exactly when the word of the first two does; the rest is handed on (R90). -/
theorem decodeBytes_cons_cons_eq_ok_iff {hi lo : Byte} {bs rest : List Byte} {i : Instr} :
    decodeBytes (hi :: lo :: bs) = .ok (i, rest) ↔ decode (joinBytes hi lo) = .ok i ∧ bs = rest := by
  rw [decodeBytes]
  cases decode (joinBytes hi lo) <;> simp

namespace Machine

/-- The engine step at a word that decodes: the instruction runs in the state after its fetch (R24, R243). -/
theorem State.engineStep_of_decode {s : State} {i : Instr} (hr : s.estate = .ready) (hpc : s.pc.toNat ≤ 0xFFE)
    (hd : decode (joinBytes (s.mem.get s.pc.toNat) (s.mem.get (s.pc.toNat + 1))) = .ok i) :
    s.engineStep = exec i (s.latch (joinBytes (s.mem.get s.pc.toNat) (s.mem.get (s.pc.toNat + 1)))) := by
  rw [State.engineStep_ready hr, if_pos hpc, hd]

/-- Settles O7: the state after the fetch is `s.latch` of the word at PC. -/
theorem stepRunsTheDecodedInstruction : Obligations.StepRunsTheDecodedInstruction := by
  intro s i hin hr hpc hd
  have hdec := (decodeBytes_cons_cons_eq_ok_iff.mp hd).1
  refine ⟨s.latch (joinBytes (s.mem.get s.pc.toNat) (s.mem.get (s.pc.toNat + 1))), ?_, ?_, ?_, rfl⟩
  · rw [step_of_empty hin, State.engineStep_of_decode hr hpc hdec]
  · rw [State.latch_pc, BitVec.toNat_ofNat]
  · rw [State.latch_opcode, toNat_joinBytes]

end Machine

end Sys2Proof

namespace Sys2Proof.Machine

/-- Settles O13: the two outcomes of a byte access are the branches of `State.readByte_eq` and `State.writeByte_eq`. -/
theorem byteAccessesReadAndWriteOneByte : Obligations.ByteAccessesReadAndWriteOneByte := by
  intro s a b
  refine ⟨fun ha => ⟨?_, s.setMem (s.mem.put a b), ?_, ?_, fun c hc => ?_, rfl⟩,
    fun ha => ⟨.address a, ?_, ?_, rfl, fun hlt => Err.address_info hlt⟩⟩
  · rw [State.readByte_eq, if_pos ha]
  · rw [State.writeByte_eq, if_pos ha]
  · rw [State.readByte_eq, if_pos ha, State.setMem_mem, Memory.get_put_same]
  · rw [State.setMem_mem, Memory.get_put_ne _ _ hc]
  · rw [State.readByte_eq, if_neg (by omega)]
  · rw [State.writeByte_eq, if_neg (by omega)]

/-- The memory after a word is stored at `a` (R64): the high byte at `a`, the low byte at `a + 1`. -/
def Memory.putWord (m : Memory) (a : Nat) (w : Word) : Memory :=
  (m.put a (highByte w)).put (a + 1) (lowByte w)

@[simp] theorem Memory.get_putWord_high (m : Memory) (a : Nat) (w : Word) :
    (m.putWord a w).get a = highByte w := by
  rw [Memory.putWord, Memory.get_put_ne _ _ (by omega), Memory.get_put_same]

@[simp] theorem Memory.get_putWord_low (m : Memory) (a : Nat) (w : Word) :
    (m.putWord a w).get (a + 1) = lowByte w := by
  rw [Memory.putWord, Memory.get_put_same]

theorem Memory.get_putWord_ne (m : Memory) {a q : Nat} (w : Word) (hhi : q ≠ a) (hlo : q ≠ a + 1) :
    (m.putWord a w).get q = m.get q := by
  rw [Memory.putWord, Memory.get_put_ne _ _ hlo, Memory.get_put_ne _ _ hhi]

theorem State.readWord_ok {s : State} {a : Nat} (h : a ≤ 0xFFE) :
    s.readWord a = .ok (joinBytes (s.mem.get a) (s.mem.get (a + 1))) := by
  rw [State.readWord_eq, if_pos h]

theorem State.writeWord_ok {s : State} {a : Nat} (w : Word) (h : a ≤ 0xFFE) :
    s.writeWord a w = .ok (s.setMem (s.mem.putWord a w)) := by
  rw [State.writeWord_eq, if_pos h, Memory.putWord]

/-- A stored word is read back: joining its two bytes gives it again. -/
theorem State.readWord_setMem_putWord (s : State) {a : Nat} (w : Word) (h : a ≤ 0xFFE) :
    (s.setMem (s.mem.putWord a w)).readWord a = .ok w := by
  rw [State.readWord_ok h, State.setMem_mem, Memory.get_putWord_high, Memory.get_putWord_low,
    joinBytes_high_low]

/-- Settles O14: the lower offending address of a word access is `max a 0x1000`. -/
theorem wordAccessesAreBigEndian : Obligations.WordAccessesAreBigEndian := by
  intro s a w
  refine ⟨fun ha => ⟨⟨_, State.readWord_ok ha, toNat_joinBytes _ _⟩,
      s.setMem (s.mem.putWord a w), State.writeWord_ok w ha, State.readWord_setMem_putWord s w ha,
      ?_, ?_, fun c hhi hlo => ?_, rfl⟩,
    fun ha => ⟨.address (max a 0x1000), ?_, ?_, rfl, fun htop => ?_, fun habove hlt => ?_⟩⟩
  · rw [State.setMem_mem, Memory.get_putWord_high, toNat_highByte]
  · rw [State.setMem_mem, Memory.get_putWord_low, toNat_lowByte]
  · rw [State.setMem_mem, Memory.get_putWord_ne _ _ hhi hlo]
  · rw [State.readWord_eq, if_neg (by omega)]
  · rw [State.writeWord_eq, if_neg (by omega)]
  · rw [Err.address_info (by omega)]; omega
  · rw [Err.address_info (by omega)]; omega

end Sys2Proof.Machine

namespace Sys2Proof.Machine

/-! ### The 8-bit results and the flags as numbers (R110) -/

theorem toNat_flagByte (c : Bool) : (flagByte c).toNat = c.toNat := by
  cases c <;> rfl

theorem toNat_flagByte_decide (p : Prop) [Decidable p] :
    (flagByte (decide p)).toNat = if p then 1 else 0 := by
  rw [toNat_flagByte, Bool.toNat, Bool.cond_decide]

/-- A flag made of bit `k` is that bit as a number. -/
theorem toNat_flagByte_getLsbD (b : Byte) (k : Nat) :
    (flagByte (b.getLsbD k)).toNat = b.toNat / 2 ^ k % 2 := by
  rw [toNat_flagByte, ← BitVec.testBit_toNat, Nat.toNat_testBit]

theorem toNat_sum8 (a b : Byte) : (sum8 a b).toNat = (a.toNat + b.toNat) % 256 := by
  rw [sum8, BitVec.toNat_ofNat]

theorem toNat_diff8 (a b : Byte) : (diff8 a b).toNat = (256 + a.toNat - b.toNat) % 256 := by
  have hb := b.isLt
  rw [diff8, BitVec.toNat_ofInt]
  omega

theorem toNat_half8 (b : Byte) : (half8 b).toNat = b.toNat / 2 := by
  have hb := b.isLt
  rw [half8, BitVec.toNat_ofNat]
  omega

theorem toNat_double8 (b : Byte) : (double8 b).toNat = b.toNat * 2 % 256 := by
  rw [double8, BitVec.toNat_ofNat]

theorem toNat_carryFlag (a b : Byte) :
    (carryFlag a b).toNat = if 0xFF < a.toNat + b.toNat then 1 else 0 :=
  toNat_flagByte_decide _

theorem toNat_noBorrowFlag (a b : Byte) :
    (noBorrowFlag a b).toNat = if b.toNat < a.toNat then 1 else 0 :=
  toNat_flagByte_decide _

theorem toNat_lowBitFlag (b : Byte) : (lowBitFlag b).toNat = b.toNat % 2 := by
  rw [lowBitFlag, toNat_flagByte_getLsbD, pow_zero, Nat.div_one]

theorem toNat_highBitFlag (b : Byte) : (highBitFlag b).toNat = b.toNat / 128 := by
  have hb := b.isLt
  rw [highBitFlag, toNat_flagByte_getLsbD]
  omega

/-! ### A result and its flag (R111) -/

@[simp] theorem State.getV_setVFlag_flag (s : State) (x : RegNum) (b f : Byte) :
    (s.setVFlag x b f).getV 0xF#4 = f := by
  rw [State.getV_setVFlag, if_pos rfl]

@[simp] theorem State.getV_setVFlag_result (s : State) {x : RegNum} (b f : Byte) (hx : x ≠ 0xF#4) :
    (s.setVFlag x b f).getV x = b := by
  rw [State.getV_setVFlag, if_neg hx, if_pos rfl]

/-- What every instruction with a flag does, once its result and its flag are known as numbers:
the result into Vx unless the flag overwrites it (x = 15, D9), the flag into VF, nothing else. -/
theorem State.setVFlag_effect (s : State) (x : RegNum) {b f : Byte} {result flag : Nat}
    (hb : b.toNat = result) (hf : f.toNat = flag) :
    (x ≠ 0xF#4 → ((s.setVFlag x b f).getV x).toNat = result) ∧
      ((s.setVFlag x b f).getV 0xF#4).toNat = flag ∧ OnlyRegs [x, 0xF#4] s (s.setVFlag x b f) := by
  refine ⟨fun hx => ?_, ?_, onlyRegs_setVFlag s x b f⟩
  · rw [State.getV_setVFlag_result s b f hx, hb]
  · rw [State.getV_setVFlag_flag, hf]

/-- Settles O19: `State.setVFlag_effect` of the sum and the carry. -/
theorem addWritesSumThenCarry : Obligations.AddWritesSumThenCarry := fun x _ s =>
  ⟨_, rfl, rfl, s.setVFlag_effect x (toNat_sum8 _ _) (toNat_carryFlag _ _)⟩

/-- Settles O20: `State.setVFlag_effect` of the difference and the strict no-borrow flag, minuend first. -/
theorem subtractionsWriteDifferenceThenStrictFlag :
    Obligations.SubtractionsWriteDifferenceThenStrictFlag := fun x _ s =>
  ⟨⟨_, rfl, rfl, s.setVFlag_effect x (toNat_diff8 _ _) (toNat_noBorrowFlag _ _)⟩,
    ⟨_, rfl, rfl, s.setVFlag_effect x (toNat_diff8 _ _) (toNat_noBorrowFlag _ _)⟩⟩

/-- Settles O21: `State.setVFlag_effect` of the shifted byte and the bit shifted out. -/
theorem shiftsMoveOneBitIntoTheFlag : Obligations.ShiftsMoveOneBitIntoTheFlag := fun x s =>
  ⟨⟨_, rfl, rfl, s.setVFlag_effect x (toNat_half8 _) (toNat_lowBitFlag _)⟩,
    ⟨_, rfl, rfl, s.setVFlag_effect x (toNat_double8 _) (toNat_highBitFlag _)⟩⟩

/-! ### The instructions that write Vx alone -/

/-- Settles O16: both instructions are one `State.setV`. -/
theorem loadsAndCopiesWriteOnlyVx : Obligations.LoadsAndCopiesWriteOnlyVx := fun x y nn s =>
  ⟨⟨s.setV x nn, rfl, rfl, s.getV_setV_same x nn, onlyRegs_setV s x nn⟩,
    ⟨s.setV x (s.getV y), rfl, rfl, s.getV_setV_same x _, onlyRegs_setV s x _⟩⟩

/-- Settles O17: one `State.setV` of the sum, so no flag is written. -/
theorem addImmediateWrapsWithoutFlag : Obligations.AddImmediateWrapsWithoutFlag := by
  intro x nn s
  refine ⟨s.setV x (sum8 (s.getV x) nn), rfl, rfl, ?_, onlyRegs_setV s x _⟩
  rw [State.getV_setV_same, toNat_sum8]

/-- Settles O22: the draw is counted, then Vx gets the drawn byte masked bit by bit. -/
theorem randomByteIsMasked : Obligations.RandomByteIsMasked := by
  intro x nn s
  refine ⟨s.countDraw.setV x (s.rnd &&& nn), rfl, rfl, fun k => ?_, fun hnn => ?_, rfl,
    onlyRegs_setV s.countDraw x _⟩
  · rw [State.getV_setV_same, BitVec.getLsbD_and, State.rnd]
  · rw [State.getV_setV_same, hnn, BitVec.and_zero]

end Sys2Proof.Machine

namespace Sys2Proof.Machine

/-! ### Jumps and skips (R140, R142, R144 to R148) -/

@[simp] theorem State.pc_setPc_addr (s : State) (a : Addr) : (s.setPc a.toNat).pc = a := by
  rw [State.setPc_pc, BitVec.ofNat_toNat, BitVec.setWidth_eq]

/-- What a skip does, once its test is known as a proposition `p`: one word past when `p` holds, and nothing but PC. -/
theorem State.skipIf_effect (s : State) {c : Bool} {p : Prop} [Decidable p] (h : c = true ↔ p) :
    OnlyPc s (s.skipIf c) ∧
      (s.skipIf c).pc.toNat = if p then (s.pc.toNat + 2) % 0x1000 else s.pc.toNat := by
  refine ⟨onlyPc_skipIf s c, ?_⟩
  rw [toNat_pc_skipIf]
  exact if_congr h rfl rfl

/-- The skip whose test is the negation of `p`. -/
theorem State.skipIf_effect_not (s : State) {c : Bool} {p : Prop} [Decidable p] (h : c = true ↔ ¬ p) :
    OnlyPc s (s.skipIf c) ∧
      (s.skipIf c).pc.toNat = if p then s.pc.toNat else (s.pc.toNat + 2) % 0x1000 := by
  rw [← ite_not p]
  exact s.skipIf_effect h

/-- Settles O27: `State.skipIf_effect` of the equality, or of its negation. -/
theorem comparisonsSkipOneWord : Obligations.ComparisonsSkipOneWord := fun _ _ _ s =>
  ⟨⟨_, rfl, rfl, s.skipIf_effect beq_iff_eq⟩, ⟨_, rfl, rfl, s.skipIf_effect_not bne_iff_ne⟩,
    ⟨_, rfl, rfl, s.skipIf_effect beq_iff_eq⟩, ⟨_, rfl, rfl, s.skipIf_effect_not bne_iff_ne⟩⟩

/-- Settles O23: both instructions are one `State.setPc`. -/
theorem jumpsWriteOnlyPc : Obligations.JumpsWriteOnlyPc := by
  intro nnn s
  refine ⟨⟨s.setPc nnn.toNat, rfl, rfl, s.pc_setPc_addr nnn, onlyPc_setPc s _⟩,
    s.setPc (jumpOffset nnn (s.getV 0x0#4)), rfl, rfl, ?_, onlyPc_setPc s _⟩
  rw [State.setPc_pc, BitVec.toNat_ofNat, jumpOffset]

/-! ### Call and return (R141, R143) -/

theorem onlyMemorySpPc_setSp (s : State) (a : Nat) : OnlyMemorySpPc s (s.setSp a) :=
  ⟨fun _ _ => rfl, rfl, ⟨rfl, rfl, rfl, rfl⟩, ⟨rfl, rfl, rfl, rfl, rfl, rfl⟩, rfl, rfl, rfl⟩

theorem onlyMemorySpPc_setMem {s t : State} (h : OnlyMemorySpPc s t) (m : Memory) :
    OnlyMemorySpPc s (t.setMem m) := h

theorem onlyMemorySpPc_setPc {s t : State} (h : OnlyMemorySpPc s t) (a : Nat) :
    OnlyMemorySpPc s (t.setPc a) := h

/-- A stack error records SP (R226). -/
theorem takesError_raise_sp (s : State) (kind : ErrKind) :
    TakesError kind s.opcode s.sp.toNat s (s.raise ⟨kind, s.sp.setWidth 17⟩) := by
  have h := takesError_raise s ⟨kind, s.sp.setWidth 17⟩
  rwa [BitVec.toNat_setWidth_of_le (by decide)] at h

/-- The state after a call that finds a free slot: SP advanced, the advanced PC stored there, PC at the target. -/
def State.called (s : State) (nnn : Addr) : State :=
  ((s.setSp (s.sp.toNat + 2)).setMem
    (s.mem.putWord (s.sp.toNat + 2) (s.pc.setWidth 16))).setPc nnn.toNat

/-- The state after a return that finds a slot in use: SP retreated, PC at the slot's word. -/
def State.returned (s : State) : State :=
  (s.setSp (s.sp.toNat - 2)).setPc
    (joinBytes (s.mem.get s.sp.toNat) (s.mem.get (s.sp.toNat + 1))).toNat

theorem exec_call_of_room {s : State} (h : s.sp.toNat < 0x6C) (nnn : Addr) :
    exec (.call nnn) s = .next (s.called nnn) := by
  rw [exec_call_eq, if_neg (Nat.not_le.mpr h), State.called, Memory.putWord]

theorem exec_call_of_full {s : State} (h : 0x6C ≤ s.sp.toNat) (nnn : Addr) :
    exec (.call nnn) s = .next (s.raise ⟨.stackOverflow, s.sp.setWidth 17⟩) := by
  rw [exec_call_eq, if_pos h]

theorem exec_ret_of_used {s : State} (h : 0x4E < s.sp.toNat) : exec .ret s = .next s.returned := by
  rw [exec_ret_eq, if_neg (Nat.not_le.mpr h), State.returned]

theorem exec_ret_of_empty {s : State} (h : s.sp.toNat ≤ 0x4E) :
    exec .ret s = .next (s.raise ⟨.stackUnderflow, s.sp.setWidth 17⟩) := by
  rw [exec_ret_eq, if_pos h]

@[simp] theorem State.called_pc (s : State) (nnn : Addr) : (s.called nnn).pc = nnn :=
  State.pc_setPc_addr _ nnn

@[simp] theorem State.called_mem (s : State) (nnn : Addr) :
    (s.called nnn).mem = s.mem.putWord (s.sp.toNat + 2) (s.pc.setWidth 16) := rfl

theorem State.toNat_sp_called {s : State} (h : s.sp.toNat < 0x6C) (nnn : Addr) :
    (s.called nnn).sp.toNat = s.sp.toNat + 2 := by
  rw [State.called, State.setPc_sp, State.setMem_sp, State.setSp_sp, BitVec.toNat_ofNat,
    Nat.mod_eq_of_lt (by omega)]

theorem onlyMemorySpPc_called (s : State) (nnn : Addr) : OnlyMemorySpPc s (s.called nnn) :=
  onlyMemorySpPc_setPc (onlyMemorySpPc_setMem (onlyMemorySpPc_setSp s _) _) _

@[simp] theorem State.returned_mem (s : State) : s.returned.mem = s.mem := rfl

theorem State.toNat_pc_returned (s : State) :
    s.returned.pc.toNat =
      ((s.mem.get s.sp.toNat).toNat * 256 + (s.mem.get (s.sp.toNat + 1)).toNat) % 0x1000 := by
  rw [State.returned, State.setPc_pc, BitVec.toNat_ofNat, toNat_joinBytes]

theorem State.toNat_sp_returned (s : State) : s.returned.sp.toNat = s.sp.toNat - 2 := by
  have hsp := s.sp.isLt
  rw [State.returned, State.setPc_sp, State.setSp_sp, BitVec.toNat_ofNat,
    Nat.mod_eq_of_lt (by omega)]

theorem onlyMemorySpPc_returned (s : State) : OnlyMemorySpPc s s.returned :=
  onlyMemorySpPc_setPc (onlyMemorySpPc_setSp s _) _

/-- PC as a stack entry keeps its value, so a pushed word has a zero high nibble (R143). -/
theorem toNat_addr_as_word (a : Addr) : (a.setWidth 16).toNat = a.toNat :=
  BitVec.toNat_setWidth_of_le (by decide)

/-- Settles O24: with room the state is `State.called`, else the overflow is raised with SP. -/
theorem callPushesTheReturnAddress : Obligations.CallPushesTheReturnAddress := by
  intro nnn s
  rcases Nat.lt_or_ge s.sp.toNat 0x6C with room | full
  · refine ⟨s.called nnn, exec_call_of_room room nnn, rfl, fun _ => ⟨s.called_pc nnn,
      State.toNat_sp_called room nnn, ?_, ?_, fun a hhi hlo => ?_, onlyMemorySpPc_called s nnn⟩,
      fun full => absurd full (Nat.not_le.mpr room)⟩
    · rw [State.called_mem, Memory.get_putWord_high, toNat_highByte, toNat_addr_as_word]
    · rw [State.called_mem, Memory.get_putWord_low, toNat_lowByte, toNat_addr_as_word]
    · rw [State.called_mem, Memory.get_putWord_ne _ _ hhi hlo]
  · exact ⟨_, exec_call_of_full full nnn, rfl, fun room => absurd full (Nat.not_le.mpr room),
      fun _ => takesError_raise_sp s .stackOverflow⟩

/-- Settles O25: with a slot in use the state is `State.returned`, else the underflow is raised with SP. -/
theorem returnPopsTheReturnAddress : Obligations.ReturnPopsTheReturnAddress := by
  intro s
  rcases Nat.lt_or_ge 0x4E s.sp.toNat with used | empty
  · exact ⟨s.returned, exec_ret_of_used used, rfl, fun _ => ⟨s.toNat_pc_returned,
      s.toNat_sp_returned, fun a => by rw [State.returned_mem], onlyMemorySpPc_returned s⟩,
      fun empty => absurd empty (Nat.not_le.mpr used)⟩
  · exact ⟨_, exec_ret_of_empty empty, rfl, fun used => absurd empty (Nat.not_le.mpr used),
      fun _ => takesError_raise_sp s .stackUnderflow⟩

end Sys2Proof.Machine

namespace Sys2Proof.Machine

/-! ### Display (R163, R164) -/

/-- Only the registers in `rs` and the display may differ. -/
abbrev OnlyRegsAndDisp (rs : List RegNum) (s t : State) : Prop :=
  SameRegsBut rs s t ∧ t.pc = s.pc ∧ SamePointers s t ∧ SameMemory s t ∧ t.keys = s.keys ∧
    SameTimers s t ∧ SameControl s t ∧ SameEnv s t

theorem onlyRegsAndDisp_of_setDisp {rs : List RegNum} {s t : State} {d : Framebuffer}
    (h : OnlyRegs rs (s.setDisp d) t) : OnlyRegsAndDisp rs s t := by
  obtain ⟨hregs, hpc, hptr, hmem, ⟨-, hkeys, htimers⟩, hcontrol, henv⟩ := h
  exact ⟨hregs, hpc, hptr, hmem, hkeys, htimers, hcontrol, henv⟩

/-- A sprite collides exactly when drawing it clears a set cell (R164, R165). -/
theorem hit_drawRows_iff_cleared (d : Framebuffer) (r0 c0 : Nat) (rows : List Byte) :
    (drawRows d r0 c0 rows).2 = true ↔
      ∃ p q, d.cell p q = true ∧ (drawRows d r0 c0 rows).1.cell p q = false := by
  rw [hit_drawRows]
  refine exists_congr fun p => exists_congr fun q => ?_
  rw [and_comm, and_congr_right_iff]
  intro hset
  rw [cell_drawRows, hset, Bool.true_xor, Bool.not_eq_false', decide_eq_true_iff]

/-- The sprite read from memory lies on the cells that `SpriteCovers` names. -/
theorem spriteOn_getList_iff (m : Memory) (i : Nat) (vx vy : Byte) (n p q : Nat) :
    spriteOn (spriteRow vy) (spriteColumn vx) (m.getList i n) p q ↔ SpriteCovers m i vx vy n p q := by
  simp only [spriteOn, bitLands, spriteBit, spriteRow, spriteColumn, Memory.length_getList]
  constructor
  · rintro ⟨hp, hrow, hlast, hcol, hwidth, hq, hbit⟩
    rw [Memory.getD_getList _ _ _ _ hlast] at hbit
    exact ⟨hp, by omega, hrow, by omega, hcol, by omega, hbit⟩
  · rintro ⟨hp, hq, hrow, hlast, hcol, hwidth, hbit⟩
    refine ⟨hp, hrow, by omega, hcol, by omega, by omega, ?_⟩
    rwa [Memory.getD_getList _ _ _ _ (by omega)]

theorem State.cell_drawAt_getList (s : State) (vx vy : Byte) (m : Memory) (i n p q : Nat) :
    (s.drawAt vx vy (m.getList i n)).disp.cell p q =
      (s.disp.cell p q ^^ decide (SpriteCovers m i vx vy n p q)) := by
  rw [State.drawAt, State.setV_disp, State.setDisp_disp, cell_drawRows,
    decide_eq_decide.mpr (spriteOn_getList_iff m i vx vy n p q)]

/-- VF after a draw is the collision of its rows (R165). -/
theorem State.getV_drawAt_flag (s : State) (vx vy : Byte) (rows : List Byte) :
    (s.drawAt vx vy rows).getV 0xF#4 =
      collisionFlag (drawRows s.disp (spriteRow vy) (spriteColumn vx) rows).2 := by
  rw [State.drawAt, State.getV_setV_same]

theorem State.flag_drawAt_of_cleared {s : State} {vx vy : Byte} {rows : List Byte}
    (h : ∃ p q, s.disp.cell p q = true ∧ (s.drawAt vx vy rows).disp.cell p q = false) :
    (s.drawAt vx vy rows).getV 0xF#4 = 0x01#8 := by
  rw [State.getV_drawAt_flag, (hit_drawRows_iff_cleared ..).mpr h]; rfl

theorem State.flag_drawAt_of_kept {s : State} {vx vy : Byte} {rows : List Byte}
    (h : ∀ p q, s.disp.cell p q = true → (s.drawAt vx vy rows).disp.cell p q = true) :
    (s.drawAt vx vy rows).getV 0xF#4 = 0x00#8 := by
  have miss : (drawRows s.disp (spriteRow vy) (spriteColumn vx) rows).2 = false := by
    refine Bool.eq_false_iff.mpr fun hit => ?_
    obtain ⟨p, q, hset, hclear⟩ := (hit_drawRows_iff_cleared ..).mp hit
    exact Bool.false_ne_true (hclear.symm.trans (h p q hset))
  rw [State.getV_drawAt_flag, miss]; rfl

theorem onlyRegsAndDisp_drawAt (s : State) (vx vy : Byte) (rows : List Byte) :
    OnlyRegsAndDisp [0xF#4] s (s.drawAt vx vy rows) :=
  onlyRegsAndDisp_of_setDisp (onlyRegs_setV (s.setDisp _) 0xF#4 _)

/-- Settles O29: the meaning is one `State.setDisp` of the blank display. -/
theorem clearScreenClearsEveryCell : Obligations.ClearScreenClearsEveryCell := fun s =>
  ⟨s.setDisp Framebuffer.blank, rfl, rfl, Framebuffer.cell_blank,
    onlyRegsAndDisp_of_setDisp (onlyRegs_refl [] (s.setDisp Framebuffer.blank))⟩

/-- Settles O30: with every sprite byte in memory the state is `State.drawAt`, else the lowest bad address is raised. -/
theorem drawTogglesTheSpriteAndReportsCollision :
    Obligations.DrawTogglesTheSpriteAndReportsCollision := by
  intro x y n s
  refine ⟨_, exec_drw_eq x y n s, rfl, fun inside => ?_, fun hn outside => ?_⟩
  · rw [if_pos inside]
    exact ⟨s.cell_drawAt_getList _ _ _ _ _, State.flag_drawAt_of_cleared, State.flag_drawAt_of_kept,
      onlyRegsAndDisp_drawAt s _ _ _⟩
  · rw [if_neg (by omega)]
    exact takesError_address s s.max_index_lt

end Sys2Proof.Machine

namespace Sys2Proof.Machine

/-! ### Keypad, key-wait and timers (R180 to R187) -/

/-- The key a code names is the code modulo 16 (R180, D16). -/
theorem keyNumber_eq_of_toNat {code : Byte} {k : Nibble} (h : k.toNat = code.toNat % 16) :
    keyNumber code = k := by
  apply BitVec.eq_of_toNat_eq
  rw [keyNumber, BitVec.toNat_setWidth, h]

theorem State.isDown_eq_of_toNat (s : State) {code : Byte} {k : Nibble} (h : k.toNat = code.toNat % 16) :
    s.isDown code = s.keys[k.toNat] := by
  cases keyNumber_eq_of_toNat h
  rfl

theorem State.isUp_iff (s : State) (code : Byte) : s.isUp code = true ↔ ¬ s.isDown code = true := by
  rw [State.isUp, Bool.not_eq_true', Bool.not_eq_true]

/-- Settles O28: `State.skipIf_effect` of the key's level, or of its negation. -/
theorem keySkipsTestTheLatch : Obligations.KeySkipsTestTheLatch := by
  intro x k s hk
  rw [← s.isDown_eq_of_toNat hk]
  exact ⟨⟨_, rfl, rfl, s.skipIf_effect Iff.rfl⟩, ⟨_, rfl, rfl, s.skipIf_effect_not (s.isUp_iff _)⟩⟩

/-- Settles O32: FX07 is one `State.setV`; FX15 and FX18 answer the very state their frame starts from. -/
theorem timerTransfers : Obligations.TimerTransfers := fun x s =>
  ⟨⟨s.setV x s.dt, rfl, rfl, s.getV_setV_same x s.dt, onlyRegs_setV s x s.dt⟩,
    ⟨s.setDt (s.getV x), rfl, rfl, s.setDt_dt _, onlyRegs_refl [] (s.setDt (s.getV x))⟩,
    ⟨s.setSt (s.getV x), rfl, rfl, s.setSt_st _, onlyRegs_refl [] (s.setSt (s.getV x))⟩⟩

/-- Settles O33: the meaning is one `State.startWait`, which writes the pending register and the engine state alone. -/
theorem keyWaitSuspendsTheEngine : Obligations.KeyWaitSuspendsTheEngine := fun x s =>
  ⟨s.startWait x, rfl, rfl, s.startWait_waitX x, s.startWait_estate x, onlyRegs_refl [] (s.startWait x)⟩

end Sys2Proof.Machine

namespace Sys2Proof.Machine

/-! ### Index register and memory transfers (R201 to R206) -/

/-- Masking with 0x0F keeps the value modulo 16, so a glyph address depends on the low nibble alone (R203, D14). -/
theorem glyphAddress_eq (b : Byte) : glyphAddress b = b.toNat % 16 * 5 := by
  rw [glyphAddress, BitVec.toNat_and]
  exact congrArg (· * 5) (Nat.and_two_pow_sub_one_eq_mod b.toNat 4)

theorem State.toNat_i_setI (s : State) {a : Nat} (h : a < 0x10000) : (s.setI a).i.toNat = a := by
  rw [State.setI_i, BitVec.toNat_ofNat, Nat.mod_eq_of_lt h]

/-- Settles O37: each of the three is one `State.setI`. -/
theorem indexRegisterLoads : Obligations.IndexRegisterLoads := by
  intro nnn x s
  have hnnn := nnn.isLt
  refine ⟨⟨_, rfl, rfl, s.toNat_i_setI (by omega), onlyI_setI s _⟩,
    ⟨_, rfl, rfl, BitVec.toNat_ofNat _ _, onlyI_setI s _⟩, ⟨_, rfl, rfl, ?_, onlyI_setI s _⟩⟩
  rw [glyphAddress_eq, s.toNat_i_setI (by omega)]

/-- Nothing but memory may differ. -/
abbrev OnlyMemory (s t : State) : Prop :=
  SameRegsBut [] s t ∧ t.pc = s.pc ∧ SamePointers s t ∧ SameDevices s t ∧ SameControl s t ∧ SameEnv s t

theorem onlyMemory_setMem (s : State) (m : Memory) : OnlyMemory s (s.setMem m) :=
  ⟨fun _ _ => rfl, rfl, ⟨rfl, rfl⟩, ⟨rfl, rfl, rfl, rfl⟩, ⟨rfl, rfl, rfl, rfl, rfl, rfl⟩, rfl, rfl, rfl⟩

/-- Nothing but the general registers may differ. -/
abbrev OnlyGeneralRegs (s t : State) : Prop :=
  t.pc = s.pc ∧ SamePointers s t ∧ SameMemory s t ∧ SameDevices s t ∧ SameControl s t ∧ SameEnv s t

theorem onlyGeneralRegs_setRegs (s : State) (v : Vector Byte 16) : OnlyGeneralRegs s (s.setRegs v) :=
  ⟨rfl, ⟨rfl, rfl⟩, fun _ => rfl, ⟨rfl, rfl, rfl, rfl⟩, ⟨rfl, rfl, rfl, rfl, rfl, rfl⟩, rfl, rfl, rfl⟩

theorem Memory.get_putList_inside (m : Memory) (a : Nat) {vs : List Byte} {k : Nat} (h : k < vs.length) :
    (m.putList a vs).get (a + k) = vs.getD k 0 := by
  rw [Memory.get_putList, if_pos (by omega), Nat.add_sub_cancel_left]

theorem Memory.get_putList_outside (m : Memory) {a q : Nat} {vs : List Byte}
    (h : q < a ∨ a + vs.length ≤ q) : (m.putList a vs).get q = m.get q := by
  rw [Memory.get_putList, if_neg (by omega)]

theorem length_bcdDigits (b : Byte) : (bcdDigits b).length = 3 := rfl

/-- The bytes FX33 stores are the hundreds, the tens and the units: each digit fits its byte (R204). -/
theorem Memory.toNat_get_putList_bcdDigits (m : Memory) (a : Nat) (b : Byte) :
    ((m.putList a (bcdDigits b)).get a).toNat = b.toNat / 100 ∧
      ((m.putList a (bcdDigits b)).get (a + 1)).toNat = b.toNat / 10 % 10 ∧
      ((m.putList a (bcdDigits b)).get (a + 2)).toNat = b.toNat % 10 := by
  have hb := b.isLt
  have stored {k d : Nat} (hk : k < 3) (hd : d < 2 ^ 8) (h : (bcdDigits b).getD k 0 = BitVec.ofNat 8 d) :
      ((m.putList a (bcdDigits b)).get (a + k)).toNat = d := by
    rw [Memory.get_putList_inside m a hk, h, BitVec.toNat_ofNat, Nat.mod_eq_of_lt hd]
  exact ⟨stored (k := 0) (by decide) (by omega) rfl, stored (by decide) (by omega) rfl,
    stored (by decide) (by omega) rfl⟩

theorem Memory.get_putList_bcdDigits_outside (m : Memory) {a q : Nat} (b : Byte)
    (h : q < a ∨ a + 2 < q) : (m.putList a (bcdDigits b)).get q = m.get q :=
  Memory.get_putList_outside _ (by rw [length_bcdDigits]; omega)

/-- Settles O38: with all three addresses in memory the digits are stored, else the lowest bad address is raised. -/
theorem decimalDigitsAreStored : Obligations.DecimalDigitsAreStored := by
  intro x s
  refine ⟨_, exec_ldB_eq x s, rfl, fun inside => ?_, fun outside => ?_⟩
  · obtain ⟨hundreds, tens, units⟩ := s.mem.toNat_get_putList_bcdDigits s.i.toNat (s.getV x)
    rw [if_pos (by omega), State.setMem_mem, hundreds, tens, units]
    exact ⟨by omega, fun _ => s.mem.get_putList_bcdDigits_outside _, onlyMemory_setMem s _⟩
  · rw [if_neg (by omega)]
    exact takesError_address s s.max_index_lt

theorem State.get_putList_regsUpTo_inside (s : State) (m : Memory) (a : Nat) {x r : RegNum}
    (h : r.toNat ≤ x.toNat) : (m.putList a (s.regsUpTo x)).get (a + r.toNat) = s.getV r := by
  rw [Memory.get_putList_inside _ _ (by rw [State.length_regsUpTo]; omega), State.getD_regsUpTo s x r h]

theorem State.get_putList_regsUpTo_outside (s : State) (m : Memory) {a q : Nat} {x : RegNum}
    (h : q < a ∨ a + x.toNat < q) : (m.putList a (s.regsUpTo x)).get q = m.get q :=
  Memory.get_putList_outside _ (by rw [State.length_regsUpTo]; omega)

/-- Settles O39: with the whole block in memory V0 to Vx are stored, else the lowest bad address is raised. -/
theorem registerBlockIsStoredInclusive : Obligations.RegisterBlockIsStoredInclusive := by
  intro x s
  refine ⟨_, exec_stRegs_eq x s, rfl, fun inside => ?_, fun outside => ?_⟩
  · rw [if_pos inside]
    exact ⟨fun _ => s.get_putList_regsUpTo_inside _ _, fun _ => s.get_putList_regsUpTo_outside _,
      onlyMemory_setMem s _⟩
  · rw [if_neg (by omega)]
    exact takesError_address s s.max_index_lt

/-- A register after the block V0 to Vx was filled from memory at `a`: its byte up to Vx, itself above (R206). -/
theorem State.getV_setRegs_fillRegs_getList (s : State) (m : Memory) (a : Nat) (x r : RegNum) :
    (s.setRegs (fillRegs s.v 0 (m.getList a (x.toNat + 1)))).getV r =
      if r.toNat ≤ x.toNat then m.get (a + r.toNat) else s.getV r := by
  rw [State.getV_setRegs, getElem_fillRegs, Memory.length_getList]
  by_cases h : r.toNat ≤ x.toNat
  · rw [if_pos (by omega), if_pos h, Nat.sub_zero, Memory.getD_getList _ _ _ _ (by omega)]
  · rw [if_neg (by omega), if_neg h, State.getV]

/-- Settles O40: with the whole block in memory V0 to Vx are filled, else the lowest bad address is raised. -/
theorem registerBlockIsLoadedInclusive : Obligations.RegisterBlockIsLoadedInclusive := by
  intro x s
  refine ⟨_, exec_ldRegs_eq x s, rfl, fun inside => ?_, fun outside => ?_⟩
  · rw [if_pos inside]
    exact ⟨s.getV_setRegs_fillRegs_getList s.mem s.i.toNat x, onlyGeneralRegs_setRegs s _⟩
  · rw [if_neg (by omega)]
    exact takesError_address s s.max_index_lt

end Sys2Proof.Machine

namespace Sys2Proof

open Laws.EncodesToRow (accepts_iff)

/-! ### A word that decodes matches the row of its instruction (R94 to R100) -/

theorem Row.accepts_of_maskF000 {r : Row} {w : Word} (hm : r.mask = 0xF000#16)
    (hp : r.pattern = encodeFA (fieldG w) 0#12) : r.accepts w = true := by
  rw [accepts_iff, hm, hp, and_maskF000]

theorem Row.accepts_of_maskF00F {r : Row} {w : Word} (hm : r.mask = 0xF00F#16)
    (hp : r.pattern = encodeFR (fieldG w) 0#4 0#4 (fieldN w)) : r.accepts w = true := by
  rw [accepts_iff, hm, hp, and_maskF00F]

theorem Row.accepts_of_maskF0FF {r : Row} {w : Word} (hm : r.mask = 0xF0FF#16)
    (hp : r.pattern = encodeFX (fieldG w) 0#4 (fieldNN w)) : r.accepts w = true := by
  rw [accepts_iff, hm, hp, and_maskF0FF]

theorem row_accepts_of_decodeGroup0 {w : Word} {i : Instr} (h : decodeGroup0 w = some i) :
    i.row.accepts w = true := by
  unfold decodeGroup0 at h
  split at h
  · cases h; subst w; decide
  · split at h
    · cases h; subst w; decide
    · cases h

theorem row_accepts_of_decodeGroup8 {w : Word} {i : Instr} (hg : fieldG w = 0x8#4)
    (h : decodeGroup8 (fieldN w) (fieldX w) (fieldY w) = some i) : i.row.accepts w = true := by
  unfold decodeGroup8 at h
  split at h <;> cases h <;>
    exact Row.accepts_of_maskF00F rfl (by rw [hg, ‹fieldN w = _›]; rfl)

theorem row_accepts_of_decodeGroupE {w : Word} {i : Instr} (hg : fieldG w = 0xE#4)
    (h : decodeGroupE (fieldNN w) (fieldX w) = some i) : i.row.accepts w = true := by
  unfold decodeGroupE at h
  split at h <;> cases h <;>
    exact Row.accepts_of_maskF0FF rfl (by rw [hg, ‹fieldNN w = _›]; rfl)

theorem row_accepts_of_decodeGroupF {w : Word} {i : Instr} (hg : fieldG w = 0xF#4)
    (h : decodeGroupF (fieldNN w) (fieldX w) = some i) : i.row.accepts w = true := by
  unfold decodeGroupF at h
  split at h <;> cases h <;>
    exact Row.accepts_of_maskF0FF rfl (by rw [hg, ‹fieldNN w = _›]; rfl)

/-- A word decodes only to an instruction whose row it matches (R100). The case `h_k` is group `k - 1`; the groups left to the end are one row each, told by the group alone. -/
theorem row_accepts_of_decodeOption {w : Word} {i : Instr} (h : decodeOption w = some i) :
    i.row.accepts w = true := by
  unfold decodeOption at h
  split at h
  case h_1 => exact row_accepts_of_decodeGroup0 h
  case h_6 hg =>
    split at h
    case isTrue hn => cases h; exact Row.accepts_of_maskF00F rfl (by rw [hg, hn]; rfl)
    case isFalse => cases h
  case h_9 hg => exact row_accepts_of_decodeGroup8 hg h
  case h_10 hg =>
    split at h
    case isTrue hn => cases h; exact Row.accepts_of_maskF00F rfl (by rw [hg, hn]; rfl)
    case isFalse => cases h
  case h_15 hg => exact row_accepts_of_decodeGroupE hg h
  case h_16 hg => exact row_accepts_of_decodeGroupF hg h
  case h_17 => cases h
  all_goals cases h; exact Row.accepts_of_maskF000 rfl (by rw [‹fieldG w = _›]; rfl)

theorem Instr.row_mem_opcodeTable (i : Instr) : i.row ∈ opcodeTable := by
  cases i <;> simp [Instr.row, opcodeTable, rowsAddress, rowsByte, rowsRegister, rowsFunction]

/-- A word that matches no row of the table is refused with the word (R100). -/
theorem decode_of_illegalWord {w : Word} (h : legalWord w = false) :
    decode w = .error (.unrecognizedOpcode w) := by
  unfold decode
  cases hd : decodeOption w with
  | none => rfl
  | some i =>
    have legal : legalWord w = true :=
      List.any_eq_true.mpr ⟨i.row, i.row_mem_opcodeTable, row_accepts_of_decodeOption hd⟩
    rw [legal] at h
    cases h

end Sys2Proof

namespace Sys2Proof.Machine

/-! ### The illegal word -/

/-- The engine step at a word that does not decode: the error is taken in the state after its fetch (R224, R243). -/
theorem State.engineStep_of_illegalWord {s : State} (hr : s.estate = .ready) (hpc : s.pc.toNat ≤ 0xFFE)
    (hw : legalWord (joinBytes (s.mem.get s.pc.toNat) (s.mem.get (s.pc.toNat + 1))) = false) :
    s.engineStep = .next (s.latch (joinBytes (s.mem.get s.pc.toNat) (s.mem.get (s.pc.toNat + 1)))).illegal := by
  rw [State.engineStep_ready hr, if_pos hpc, decode_of_illegalWord hw]

/-- After a fetch the address of the instruction is the one it was fetched from (R242). -/
theorem State.instrAddr_latch (s : State) (w : Word) : (s.latch w).instrAddr = s.pc := by
  rw [State.instrAddr, State.latch_pc]
  bv_omega

theorem takesError_illegal (s : State) :
    TakesError .unrecognizedOpcode s.opcode s.instrAddr.toNat s s.illegal := by
  have h := takesError_raise s ⟨.unrecognizedOpcode, s.instrAddr.setWidth 17⟩
  rwa [BitVec.toNat_setWidth_of_le (by decide)] at h

/-- Settles O11: the error of the illegal word is taken in the state its fetch leaves. -/
theorem illegalWordHaltsAfterItsFetch : Obligations.IllegalWordHaltsAfterItsFetch := by
  intro s hin hr hpc hw
  refine ⟨_, (step_of_empty hin).trans (State.engineStep_of_illegalWord hr hpc hw), ?_⟩
  have h := takesError_illegal (s.latch (joinBytes (s.mem.get s.pc.toNat) (s.mem.get (s.pc.toNat + 1))))
  rwa [State.instrAddr_latch] at h

/-! ### A full step is its two half-steps (R243) -/

/-- With one event in the inbox of a machine that has none, the step is that event. -/
theorem step_with_event {s : State} (hin : s.inbox = []) (e : Event) :
    step { s with inbox := [e] } = applyEvent e s := by
  have taken : State.setInbox { s with inbox := [e] } [] = s := by
    cases s; cases hin; rfl
  rw [step_of_event rfl, taken]

@[simp] theorem State.inbox_fetchHalf (s : State) : s.fetchHalf.inbox = s.inbox := by
  rw [State.fetchHalf, State.fetch_eq]
  split
  · split <;> rfl
  · rfl

/-- The engine step of a Ready machine runs the execute half in the state its fetch leaves. -/
theorem State.engineStep_eq_executeHalf {s : State} (hr : s.estate = .ready) :
    s.engineStep = s.fetchHalf.executeHalf := if_pos hr

/-- Settles O8: the state between the half-steps is `s.fetchHalf`, and outside Ready the execute half leaves it. -/
theorem fullStepIsFetchThenExecute : Obligations.FullStepIsFetchThenExecute := by
  intro s hin
  refine ⟨fun hr => ?_, fun hr => ?_, ?_⟩
  · rw [step_of_empty hin, State.engineStep_not_ready hr]
  · have hin' : s.fetchHalf.inbox = [] := by rw [State.inbox_fetchHalf, hin]
    refine ⟨s.fetchHalf, step_with_event hin .fetch, hin', ?_⟩
    rw [step_of_empty hin, State.engineStep_eq_executeHalf hr, step_with_event hin' .execute]
    by_cases hf : s.fetchHalf.estate = .ready
    · rw [if_pos hf]; rfl
    · rw [if_neg hf, State.executeHalf_not_ready hf]
  · rw [step_with_event hin, step_of_empty hin]; rfl

end Sys2Proof.Machine

namespace Sys2Proof.Machine

/-! ### Halted, and the way out of it (R232, R233) -/

/-- Everything an event can do in Halted: reset or load, nothing, or update the keypad latch (R233). -/
theorem applyEvent_of_halted {s : State} (hs : s.estate = .halted) (e : Event) :
    e = .reset ∨ (∃ rom, e = .loadRom rom) ∨ applyEvent e s = .next s ∨
      ∃ code down, e = .key code down ∧ applyEvent e s = .next (s.setKey code down) := by
  have hr : s.estate ≠ .ready := by rw [hs]; decide
  cases e with
  | reset => exact .inl rfl
  | loadRom rom => exact .inr (.inl ⟨rom, rfl⟩)
  | step => exact .inr (.inr (.inl (State.engineStep_not_ready hr)))
  | fetch => exact .inr (.inr (.inl (congrArg Host.Outcome.next (if_neg hr))))
  | execute => exact .inr (.inr (.inl (State.executeHalf_not_ready hr)))
  | tick => exact .inr (.inr (.inl (congrArg Host.Outcome.next (if_pos hs))))
  | snapshot base len => exact .inr (.inr (.inl rfl))
  | key code down =>
    have latchOnly : s.keyEvent code down = s.setKey code down := if_neg (by simp [hs])
    exact .inr (.inr (.inr ⟨code, down, rfl, congrArg Host.Outcome.next latchOnly⟩))

/-- A step from Halted ends outside it only through a reset or a ROM load (R232). -/
theorem inbox_of_step_leaves_halted {s t : State} (hs : s.estate = .halted) (hstep : step s = .next t)
    (ht : t.estate ≠ .halted) : ∃ es, s.inbox = .reset :: es ∨ ∃ rom, s.inbox = .loadRom rom :: es := by
  cases hin : s.inbox with
  | nil =>
    rw [step_of_empty hin, State.engineStep_not_ready (by rw [hs]; decide)] at hstep
    cases hstep
    exact absurd hs ht
  | cons e es =>
    rw [step_of_event hin] at hstep
    obtain rfl | ⟨rom, rfl⟩ | stays | ⟨code, down, -, latched⟩ :=
      applyEvent_of_halted (s := s.setInbox es) hs e
    · exact ⟨es, .inl rfl⟩
    · exact ⟨es, .inr ⟨rom, rfl⟩⟩
    · cases stays.symm.trans hstep
      exact absurd hs ht
    · cases latched.symm.trans hstep
      exact absurd hs ht

/-- A reset keeps of the machine only its font and the environment's own fields (R260). -/
theorem State.resetBlock_eq_of_sameEnv {s u : State} (h : SameEnv s u) : u.resetBlock = s.resetBlock := by
  obtain ⟨hdraws, hinbox, hfont⟩ := h
  rw [State.resetBlock, State.resetBlock, hdraws, hinbox, hfont]

/-- A ROM load, which resets first, does too (R264). -/
theorem State.loadRom_eq_of_sameEnv {s u : State} (h : SameEnv s u) (rom : List Byte) :
    u.loadRom rom = s.loadRom rom := by
  rw [State.loadRom, State.loadRom, State.resetBlock_eq_of_sameEnv h]

/-- Settles O45: every other event keeps Halted, and a reset, alone or in a load, does not read the failed program. -/
theorem onlyResetOrLoadLeavesHalted : Obligations.OnlyResetOrLoadLeavesHalted := by
  intro s t hs hstep
  refine ⟨inbox_of_step_leaves_halted hs hstep, fun es hin => ?_, fun es rom hin => ?_⟩
  · rw [step_of_event hin] at hstep
    cases hstep
    rfl
  · rw [step_of_event hin] at hstep
    have sameEnv : SameEnv (s.setInbox es)
        (State.setInbox { State.resetWith s.font with draws := s.draws, inbox := .loadRom rom :: es } es) :=
      ⟨rfl, rfl, rfl⟩
    rw [step_of_event rfl, ← hstep]
    exact congrArg Host.Outcome.next (State.loadRom_eq_of_sameEnv sameEnv rom)

end Sys2Proof.Machine

namespace Sys2Proof

open Laws.EncodesToRow (accepts_iff)

/-! ### Decoding what was encoded (R92, R99) -/

theorem decodeOption_encode (i : Instr) : decodeOption (encode i) = some i := by
  cases i with
  | cls | ret => rfl
  | jp | call | ldI | jpV0 =>
    simp only [encode, decodeOption, fieldG_encodeFA, fieldNNN_encodeFA]
  | seImm | sneImm | ldImm | addImm | rnd =>
    simp only [encode, decodeOption, fieldG_encodeFB, fieldX_encodeFB, fieldNN_encodeFB]
  | seReg | sneReg | drw | ldReg | orReg | andReg | xorReg | addReg | subReg | shr | subnReg | shl =>
    simp only [encode, decodeOption, decodeGroup8, fieldG_encodeFR, fieldX_encodeFR, fieldY_encodeFR,
      fieldN_encodeFR, if_true]
  | skp | sknp =>
    simp only [encode, decodeOption, decodeGroupE, fieldG_encodeFX, fieldX_encodeFX, fieldNN_encodeFX]
  | ldVxDT | ldVxK | ldDTVx | ldSTVx | addI | ldF | ldB | stRegs | ldRegs =>
    simp only [encode, decodeOption, decodeGroupF, fieldG_encodeFX, fieldX_encodeFX, fieldNN_encodeFX]

theorem decode_eq_ok_iff {w : Word} {i : Instr} : decode w = .ok i ↔ decodeOption w = some i := by
  rw [decode]
  cases decodeOption w <;> simp

theorem decode_eq_error_iff {w : Word} {e : DecodeError} :
    decode w = .error e ↔ decodeOption w = none ∧ e = .unrecognizedOpcode w := by
  rw [decode]
  cases decodeOption w <;> simp [eq_comm]

theorem decode_encode (i : Instr) : decode (encode i) = .ok i :=
  decode_eq_ok_iff.mpr (decodeOption_encode i)

/-- Settles O1: each format's fields are read back, and a word's bytes join to the word. -/
theorem decodeOfEncodeIsTheInstruction : Obligations.DecodeOfEncodeIsTheInstruction := by
  intro i rest
  refine ⟨decode_encode i, decodeBytes_cons_cons_eq_ok_iff.mpr ⟨?_, rfl⟩⟩
  rw [joinBytes_high_low, decode_encode]

/-! ### Encoding what was decoded (R96, D31) -/

theorem and_maskFF0F (w : Word) : w &&& 0xFF0F#16 = encodeFR (fieldG w) (fieldX w) 0#4 (fieldN w) := by
  conv => lhs; rw [← encodeFR_fields w]
  show ((fieldG w ++ fieldX w ++ fieldY w ++ fieldN w : BitVec (4 + 4 + 4 + 4))
      &&& (BitVec.allOnes 4 ++ BitVec.allOnes 4 ++ 0#4 ++ BitVec.allOnes 4 : BitVec (4 + 4 + 4 + 4)))
    = (fieldG w ++ fieldX w ++ 0#4 ++ fieldN w : BitVec (4 + 4 + 4 + 4))
  simp only [BitVec.and_append, BitVec.and_allOnes, BitVec.and_zero]

/-- The instructions whose `y` field is ignored (R96). -/
def Instr.IsShift (i : Instr) : Prop := ∃ x, i = .shr x ∨ i = .shl x

/-- An instruction gives back the word it was decoded from, a shift all but its `y` field. -/
def Instr.Rebuilds (i : Instr) (w : Word) : Prop :=
  (¬ i.IsShift ∧ encode i = w) ∨ (i.IsShift ∧ encode i = w &&& 0xFF0F#16)

theorem Instr.rebuilds_of_encode_eq {i : Instr} {w : Word} (h : encode i = w)
    (hi : ∀ x, i ≠ .shr x ∧ i ≠ .shl x) : i.Rebuilds w :=
  .inl ⟨fun ⟨x, hx⟩ => hx.elim (hi x).1 (hi x).2, h⟩

theorem encodeFA_of_group {w : Word} {g : Nibble} (hg : fieldG w = g) : encodeFA g (fieldNNN w) = w := by
  rw [← hg, encodeFA_fields]

theorem encodeFB_of_group {w : Word} {g : Nibble} (hg : fieldG w = g) :
    encodeFB g (fieldX w) (fieldNN w) = w := by
  rw [← hg, encodeFB_fields]

theorem encodeFR_of_group {w : Word} {g n : Nibble} (hg : fieldG w = g) (hn : fieldN w = n) :
    encodeFR g (fieldX w) (fieldY w) n = w := by
  rw [← hg, ← hn, encodeFR_fields]

theorem encodeFX_of_group {w : Word} {g : Nibble} {f : Byte} (hg : fieldG w = g) (hf : fieldNN w = f) :
    encodeFX g (fieldX w) f = w := by
  rw [← hg, ← hf, encodeFX_fields]

theorem rebuilds_of_decodeGroup0 {w : Word} {i : Instr} (h : decodeGroup0 w = some i) : i.Rebuilds w := by
  unfold decodeGroup0 at h
  split at h
  case isTrue hw => cases h; exact Instr.rebuilds_of_encode_eq hw.symm (by simp)
  case isFalse =>
    split at h
    case isTrue hw => cases h; exact Instr.rebuilds_of_encode_eq hw.symm (by simp)
    case isFalse => cases h

theorem rebuilds_of_decodeGroup8 {w : Word} {i : Instr} (hg : fieldG w = 0x8#4)
    (h : decodeGroup8 (fieldN w) (fieldX w) (fieldY w) = some i) : i.Rebuilds w := by
  unfold decodeGroup8 at h
  split at h
  case h_7 hn => cases h; exact .inr ⟨⟨_, .inl rfl⟩, by rw [and_maskFF0F, hg, hn, encode]⟩
  case h_9 hn => cases h; exact .inr ⟨⟨_, .inr rfl⟩, by rw [and_maskFF0F, hg, hn, encode]⟩
  case h_10 => cases h
  all_goals cases h; exact Instr.rebuilds_of_encode_eq (encodeFR_of_group hg ‹fieldN w = _›) (by simp)

theorem rebuilds_of_decodeGroupE {w : Word} {i : Instr} (hg : fieldG w = 0xE#4)
    (h : decodeGroupE (fieldNN w) (fieldX w) = some i) : i.Rebuilds w := by
  unfold decodeGroupE at h
  split at h <;> cases h <;>
    exact Instr.rebuilds_of_encode_eq (encodeFX_of_group hg ‹fieldNN w = _›) (by simp)

theorem rebuilds_of_decodeGroupF {w : Word} {i : Instr} (hg : fieldG w = 0xF#4)
    (h : decodeGroupF (fieldNN w) (fieldX w) = some i) : i.Rebuilds w := by
  unfold decodeGroupF at h
  split at h <;> cases h <;>
    exact Instr.rebuilds_of_encode_eq (encodeFX_of_group hg ‹fieldNN w = _›) (by simp)

/-- What a word decodes to rebuilds it. The case `h_k` is group `k - 1`, each group in its own format (R92). -/
theorem rebuilds_of_decodeOption {w : Word} {i : Instr} (h : decodeOption w = some i) : i.Rebuilds w := by
  unfold decodeOption at h
  split at h
  case h_1 => exact rebuilds_of_decodeGroup0 h
  case h_9 hg => exact rebuilds_of_decodeGroup8 hg h
  case h_15 hg => exact rebuilds_of_decodeGroupE hg h
  case h_16 hg => exact rebuilds_of_decodeGroupF hg h
  case h_17 => cases h
  case h_6 hg | h_10 hg =>
    split at h
    case isTrue hn => cases h; exact Instr.rebuilds_of_encode_eq (encodeFR_of_group hg hn) (by simp)
    case isFalse => cases h
  case h_14 hg => cases h; exact Instr.rebuilds_of_encode_eq (encodeFR_of_group hg rfl) (by simp)
  case h_2 hg | h_3 hg | h_11 hg | h_12 hg =>
    cases h; exact Instr.rebuilds_of_encode_eq (encodeFA_of_group hg) (by simp)
  case h_4 hg | h_5 hg | h_7 hg | h_8 hg | h_13 hg =>
    cases h; exact Instr.rebuilds_of_encode_eq (encodeFB_of_group hg) (by simp)

/-- Settles O2: the word is rebuilt, and the mask drops the `y` field of a shift alone. -/
theorem encodeOfDecodeRebuildsTheWord : Obligations.EncodeOfDecodeRebuildsTheWord := by
  intro w i hd
  rcases rebuilds_of_decodeOption (decode_eq_ok_iff.mp hd) with ⟨notShift, he⟩ | ⟨⟨x, hx⟩, he⟩
  · exact ⟨fun _ => he, fun shift => absurd shift notShift⟩
  · exact ⟨fun hi => absurd hx (not_or.mpr (hi x)), fun _ => he⟩

/-! ### The table against the decoder (R99, R100) -/

theorem fieldG_of_accepts_maskF000 {p w : Word} (h : Row.accepts ⟨p, 0xF000#16⟩ w = true) :
    fieldG w = fieldG p := by
  have hp : w &&& 0xF000#16 = p := (accepts_iff _ _).mp h
  rw [← hp, and_maskF000, fieldG_encodeFA]

theorem fields_of_accepts_maskF00F {p w : Word} (h : Row.accepts ⟨p, 0xF00F#16⟩ w = true) :
    fieldG w = fieldG p ∧ fieldN w = fieldN p := by
  have hp : w &&& 0xF00F#16 = p := (accepts_iff _ _).mp h
  rw [← hp, and_maskF00F, fieldG_encodeFR, fieldN_encodeFR]
  exact ⟨rfl, rfl⟩

theorem fields_of_accepts_maskF0FF {p w : Word} (h : Row.accepts ⟨p, 0xF0FF#16⟩ w = true) :
    fieldG w = fieldG p ∧ fieldNN w = fieldNN p := by
  have hp : w &&& 0xF0FF#16 = p := (accepts_iff _ _).mp h
  rw [← hp, and_maskF0FF, fieldG_encodeFX, fieldNN_encodeFX]
  exact ⟨rfl, rfl⟩

theorem eq_of_accepts_maskFFFF {p w : Word} (h : Row.accepts ⟨p, 0xFFFF#16⟩ w = true) : w = p := by
  have hp : w &&& 0xFFFF#16 = p := (accepts_iff _ _).mp h
  rw [← hp, and_maskFFFF]

theorem decodes_of_rowsAddress {r : Row} {w : Word} (hr : r ∈ rowsAddress) (h : r.accepts w = true) :
    ∃ i, decodeOption w = some i := by
  simp only [rowsAddress, List.mem_cons, List.not_mem_nil, or_false] at hr
  rcases hr with rfl | rfl | rfl | rfl | rfl | rfl
  · rw [eq_of_accepts_maskFFFF h]; exact ⟨.cls, rfl⟩
  · rw [eq_of_accepts_maskFFFF h]; exact ⟨.ret, rfl⟩
  all_goals rw [decodeOption, fieldG_of_accepts_maskF000 h]; exact ⟨_, rfl⟩

theorem decodes_of_rowsByte {r : Row} {w : Word} (hr : r ∈ rowsByte) (h : r.accepts w = true) :
    ∃ i, decodeOption w = some i := by
  simp only [rowsByte, List.mem_cons, List.not_mem_nil, or_false] at hr
  rcases hr with rfl | rfl | rfl | rfl | rfl <;>
    rw [decodeOption, fieldG_of_accepts_maskF000 h] <;> exact ⟨_, rfl⟩

theorem decodes_of_rowsRegister {r : Row} {w : Word} (hr : r ∈ rowsRegister) (h : r.accepts w = true) :
    ∃ i, decodeOption w = some i := by
  simp only [rowsRegister, List.mem_cons, List.not_mem_nil, or_false] at hr
  rcases hr with rfl | rfl | rfl | rfl | rfl | rfl | rfl | rfl | rfl | rfl | rfl | rfl
  pick_goal 12
  · rw [decodeOption, fieldG_of_accepts_maskF000 h]; exact ⟨_, rfl⟩
  all_goals
    obtain ⟨hg, hn⟩ := fields_of_accepts_maskF00F h
    rw [decodeOption, hg, hn]
    exact ⟨_, rfl⟩

theorem decodes_of_rowsFunction {r : Row} {w : Word} (hr : r ∈ rowsFunction) (h : r.accepts w = true) :
    ∃ i, decodeOption w = some i := by
  simp only [rowsFunction, List.mem_cons, List.not_mem_nil, or_false] at hr
  rcases hr with rfl | rfl | rfl | rfl | rfl | rfl | rfl | rfl | rfl | rfl | rfl <;>
    obtain ⟨hg, hnn⟩ := fields_of_accepts_maskF0FF h <;> rw [decodeOption, hg, hnn] <;> exact ⟨_, rfl⟩

/-- A word decodes exactly when it matches a row of the table (R100, R102). -/
theorem decodes_iff_legalWord (w : Word) : (∃ i, decode w = .ok i) ↔ legalWord w = true := by
  constructor
  · rintro ⟨i, hd⟩
    exact List.any_eq_true.mpr
      ⟨i.row, i.row_mem_opcodeTable, row_accepts_of_decodeOption (decode_eq_ok_iff.mp hd)⟩
  · intro hlegal
    obtain ⟨r, hr, h⟩ := List.any_eq_true.mp hlegal
    simp only [opcodeTable, List.mem_append] at hr
    simp only [decode_eq_ok_iff]
    rcases hr with ((hr | hr) | hr) | hr
    · exact decodes_of_rowsAddress hr h
    · exact decodes_of_rowsByte hr h
    · exact decodes_of_rowsRegister hr h
    · exact decodes_of_rowsFunction hr h

/-- Settles O3: the row of the decoded instruction accepts the word, and every row's words decode. -/
theorem decoderFollowsTheOpcodeTable : Obligations.DecoderFollowsTheOpcodeTable := fun w =>
  ⟨fun i hd => ⟨i.row_mem_opcodeTable, row_accepts_of_decodeOption (decode_eq_ok_iff.mp hd)⟩,
    decodes_iff_legalWord w, decode_of_illegalWord⟩

/-- Two rows of the table that agree on the bits both masks keep are one row (R99). -/
theorem rows_eq_of_patterns_agree :
    ∀ r ∈ opcodeTable, ∀ q ∈ opcodeTable, r.pattern &&& q.mask = q.pattern &&& r.mask → r = q := by
  decide

/-- Settles O5: a word that matches two rows makes them agree on the bits both masks keep. -/
theorem noWordMatchesTwoRows : Obligations.NoWordMatchesTwoRows := by
  intro w r q hr hq hwr hwq
  refine rows_eq_of_patterns_agree r hr q hq ?_
  rw [← (accepts_iff r w).mp hwr, ← (accepts_iff q w).mp hwq, BitVec.and_assoc, BitVec.and_comm r.mask,
    ← BitVec.and_assoc]

/-! ### The illegal words (R100) -/

theorem decodeGroup0_eq_none_iff (w : Word) :
    decodeGroup0 w = none ↔ w.toNat ≠ 0x00E0 ∧ w.toNat ≠ 0x00EE := by
  unfold decodeGroup0
  split
  case isTrue hcls => simp [hcls]
  case isFalse hcls =>
    split
    case isTrue hret => simp [hret]
    case isFalse hret => simp only [true_iff]; bv_omega

theorem decodeGroup8_eq_none_iff (n : Nibble) (x y : RegNum) :
    decodeGroup8 n x y = none ↔ n.toNat ∈ [0x8, 0x9, 0xA, 0xB, 0xC, 0xD, 0xF] := by
  unfold decodeGroup8
  split
  case h_10 =>
    simp only [true_iff, List.mem_cons, List.not_mem_nil, or_false, imp_false] at *
    bv_omega
  all_goals simp

theorem decodeGroupE_eq_none_iff (nn : Byte) (x : RegNum) :
    decodeGroupE nn x = none ↔ nn.toNat ∉ [0x9E, 0xA1] := by
  unfold decodeGroupE
  split
  case h_3 =>
    simp only [true_iff, List.mem_cons, List.not_mem_nil, or_false, imp_false] at *
    bv_omega
  all_goals simp

theorem decodeGroupF_eq_none_iff (nn : Byte) (x : RegNum) :
    decodeGroupF nn x = none ↔ nn.toNat ∉ [0x07, 0x0A, 0x15, 0x18, 0x1E, 0x29, 0x33, 0x55, 0x65] := by
  unfold decodeGroupF
  split
  case h_10 =>
    simp only [true_iff, List.mem_cons, List.not_mem_nil, or_false, imp_false] at *
    bv_omega
  all_goals simp

/-- Settles O4: group by group, what the decoder refuses. -/
theorem illegalWordsAreTheListedOnes : Obligations.IllegalWordsAreTheListedOnes := by
  intro w
  have refused : decode w = .error (.unrecognizedOpcode w) ↔ decodeOption w = none := by
    rw [decode_eq_error_iff, and_iff_left rfl]
  rw [refused, ← toNat_fieldG, ← toNat_fieldN, ← toNat_fieldNN]
  unfold decodeOption
  split
  case h_17 =>
    exfalso
    simp only [imp_false] at *
    bv_omega
  all_goals
    simp [‹fieldG w = _›, decodeGroup0_eq_none_iff, decodeGroup8_eq_none_iff, decodeGroupE_eq_none_iff,
      decodeGroupF_eq_none_iff, ← BitVec.toNat_inj]

/-- Settles O6: each word is evaluated through the decoder. -/
theorem wordsOfTheSpecDecodeAsWritten : Obligations.WordsOfTheSpecDecodeAsWritten := by
  unfold Obligations.WordsOfTheSpecDecodeAsWritten
  decide

end Sys2Proof

namespace Sys2Proof.Machine

/-! ### What an instruction can do: its error, or its completion -/

/-- The error an instruction can raise in a state: its kind and what the record tells of it (R221 to R223, R227). -/
inductive RaisesIn (s : State) : Instr → Err → Prop
  | overflow (nnn : Addr) (full : 0x6C ≤ s.sp.toNat) :
      RaisesIn s (.call nnn) ⟨.stackOverflow, s.sp.setWidth 17⟩
  | underflow (empty : s.sp.toNat ≤ 0x4E) : RaisesIn s .ret ⟨.stackUnderflow, s.sp.setWidth 17⟩
  | address {i : Instr} (indexed : raises i = .addressOutOfRange) :
      RaisesIn s i (.address (max s.i.toNat 0x1000))

theorem RaisesIn.kind_eq {s : State} {i : Instr} {e : Err} (h : RaisesIn s i e) : e.kind = raises i := by
  cases h with
  | overflow | underflow => rfl
  | address indexed => exact indexed.symm

theorem RaisesIn.kind_ne_none {s : State} {i : Instr} {e : Err} (h : RaisesIn s i e) : e.kind ≠ .none := by
  cases h <;> exact nofun

/-- What an instruction that completes may write, field by field (10_state.md sections 1 to 7).
Memory stays canonical and SP legal. A field that a proof of this does not name is unchanged. -/
structure Completes (i : Instr) (s t : State) : Prop where
  regs : ∀ r, t.getV r ≠ s.getV r → writesReg i r := by exact fun _ h => absurd rfl h
  pc : t.pc ≠ s.pc → writesPc i := by exact fun h => absurd rfl h
  index : t.i ≠ s.i → (∃ nnn, i = .ldI nnn) ∨ ∃ x, i = .addI x ∨ i = .ldF x := by
    exact fun h => absurd rfl h
  sp : t.sp ≠ s.sp → i = .ret ∨ ∃ nnn, i = .call nnn := by exact fun h => absurd rfl h
  disp : t.disp ≠ s.disp → i = .cls ∨ ∃ x y n, i = .drw x y n := by exact fun h => absurd rfl h
  dt : t.dt ≠ s.dt → ∃ x, i = .ldDTVx x := by exact fun h => absurd rfl h
  st : t.st ≠ s.st → ∃ x, i = .ldSTVx x := by exact fun h => absurd rfl h
  mem : ∀ a, t.mem.get a ≠ s.mem.get a → (∃ nnn, i = .call nnn) ∨ ∃ x, i = .ldB x ∨ i = .stRegs x := by
    exact fun _ h => absurd rfl h
  waitX : t.waitX ≠ s.waitX → ∃ x, i = .ldVxK x := by exact fun h => absurd rfl h
  draws : t.draws ≠ s.draws → ∃ x nn, i = .rnd x nn := by exact fun h => absurd rfl h
  estate : t.estate ≠ s.estate → t.estate = .waitingForKey ∧ ∃ x, i = .ldVxK x := by
    exact fun h => absurd rfl h
  record : t.errKind = s.errKind ∧ t.errOpcode = s.errOpcode ∧ t.errAddr = s.errAddr := by
    exact ⟨rfl, rfl, rfl⟩
  fixed : t.keys = s.keys ∧ t.opcode = s.opcode ∧ t.inbox = s.inbox ∧ t.font = s.font := by
    exact ⟨rfl, rfl, rfl, rfl⟩
  wf : s.mem.wf = true → t.mem.wf = true := by exact id
  stackOk : s.StackOk → t.StackOk := by exact id

theorem State.getV_drawAt_ne (s : State) (vx vy : Byte) (rows : List Byte) {r : RegNum} (hr : r ≠ 0xF#4) :
    (s.drawAt vx vy rows).getV r = s.getV r := by
  obtain ⟨sameRegs, -⟩ := onlyRegsAndDisp_drawAt s vx vy rows
  exact sameRegs r (List.mem_singleton.not.mpr hr)

section Completions

variable {i : Instr} (s : State)

theorem completes_setV {x : RegNum} (b : Byte) (hx : writesReg i x) : Completes i s (s.setV x b) where
  regs r hr := by
    have hrx : x = r := by_contra fun h => hr (s.getV_setV_ne x r b h)
    exact hrx ▸ hx

theorem completes_setVFlag {x : RegNum} (b f : Byte) (hx : writesReg i x) (hf : writesReg i 0xF#4) :
    Completes i s (s.setVFlag x b f) where
  regs r hr := by
    by_contra hw
    have hrx : r ≠ x := fun h => hw (h ▸ hx)
    have hrf : r ≠ 0xF#4 := fun h => hw (h ▸ hf)
    rw [State.getV_setVFlag, if_neg hrf, if_neg hrx] at hr
    exact hr rfl

theorem completes_setPc (a : Nat) (hi : writesPc i) : Completes i s (s.setPc a) where
  pc _ := hi

theorem completes_skipIf (c : Bool) (hi : writesPc i) : Completes i s (s.skipIf c) := by
  cases c
  · exact { }
  · exact completes_setPc s _ hi

theorem completes_setI (a : Nat) (hi : (∃ nnn, i = .ldI nnn) ∨ ∃ x, i = .addI x ∨ i = .ldF x) :
    Completes i s (s.setI a) where
  index _ := hi

theorem completes_putList (a : Nat) (bs : List Byte) (ha : a + bs.length ≤ 0x1000)
    (hi : (∃ nnn, i = .call nnn) ∨ ∃ x, i = .ldB x ∨ i = .stRegs x) :
    Completes i s (s.setMem (s.mem.putList a bs)) where
  mem _ _ := hi
  wf h := Memory.wf_putList bs h ha

theorem completes_drawAt (x y : RegNum) (n : Nibble) (vx vy : Byte) (rows : List Byte) :
    Completes (.drw x y n) s (s.drawAt vx vy rows) where
  regs r hr := by
    by_contra hw
    exact hr (s.getV_drawAt_ne vx vy rows hw)
  disp _ := .inr ⟨x, y, n, rfl⟩

theorem completes_loadBlock (x : RegNum) (a : Nat) :
    Completes (.ldRegs x) s (s.setRegs (fillRegs s.v 0 (s.mem.getList a (x.toNat + 1)))) where
  regs r hr := by
    by_contra hw
    have above : ¬ r.toNat ≤ x.toNat := hw
    rw [State.getV_setRegs_fillRegs_getList, if_neg above] at hr
    exact hr rfl

theorem completes_called (nnn : Addr) (room : s.sp.toNat < 0x6C) : Completes (.call nnn) s (s.called nnn) where
  pc _ := trivial
  sp _ := .inr ⟨nnn, rfl⟩
  mem _ _ := .inl ⟨nnn, rfl⟩
  wf h := Memory.wf_put _ (Memory.wf_put _ h (by simp only [addrMax]; omega)) (by simp only [addrMax]; omega)
  stackOk := by
    rintro ⟨low, high, even⟩
    simp only [State.StackOk, State.toNat_sp_called room]
    omega

theorem completes_returned (used : 0x4E < s.sp.toNat) : Completes .ret s s.returned where
  pc _ := trivial
  sp _ := .inl rfl
  stackOk := by
    rintro ⟨low, high, even⟩
    simp only [State.StackOk, State.toNat_sp_returned]
    omega

end Completions

/-- Everything an instruction can do: it always answers a next state, the error it raises or its completion. -/
theorem exec_effect (i : Instr) (s : State) :
    ∃ t, exec i s = .next t ∧ ((∃ e, RaisesIn s i e ∧ t = s.raise e) ∨ Completes i s t) := by
  cases i with
  | ldImm | addImm | ldReg | orReg | andReg | xorReg | ldVxDT =>
    exact ⟨_, rfl, .inr (completes_setV s _ rfl)⟩
  | addReg | subReg | shr | subnReg | shl =>
    exact ⟨_, rfl, .inr (completes_setVFlag s _ _ (.inl rfl) (.inr rfl))⟩
  | seImm | sneImm | seReg | sneReg | skp | sknp => exact ⟨_, rfl, .inr (completes_skipIf s _ trivial)⟩
  | jp | jpV0 => exact ⟨_, rfl, .inr (completes_setPc s _ trivial)⟩
  | ldI nnn => exact ⟨_, rfl, .inr (completes_setI s _ (.inl ⟨nnn, rfl⟩))⟩
  | addI x => exact ⟨_, rfl, .inr (completes_setI s _ (.inr ⟨x, .inl rfl⟩))⟩
  | ldF x => exact ⟨_, rfl, .inr (completes_setI s _ (.inr ⟨x, .inr rfl⟩))⟩
  | rnd x nn =>
    have written : Completes (.rnd x nn) s.countDraw (s.countDraw.setV x (s.rnd &&& nn)) :=
      completes_setV s.countDraw _ rfl
    exact ⟨_, rfl, .inr { written with draws := fun _ => ⟨x, nn, rfl⟩ }⟩
  | cls => exact ⟨_, rfl, .inr { disp := fun _ => .inl rfl }⟩
  | ldDTVx x => exact ⟨_, rfl, .inr { dt := fun _ => ⟨x, rfl⟩ }⟩
  | ldSTVx x => exact ⟨_, rfl, .inr { st := fun _ => ⟨x, rfl⟩ }⟩
  | ldVxK x => exact ⟨_, rfl, .inr { waitX := fun _ => ⟨x, rfl⟩, estate := fun _ => ⟨rfl, x, rfl⟩ }⟩
  | call nnn =>
    rcases Nat.lt_or_ge s.sp.toNat 0x6C with room | full
    · exact ⟨_, exec_call_of_room room nnn, .inr (completes_called s nnn room)⟩
    · exact ⟨_, exec_call_of_full full nnn, .inl ⟨_, .overflow nnn full, rfl⟩⟩
  | ret =>
    rcases Nat.lt_or_ge 0x4E s.sp.toNat with used | empty
    · exact ⟨_, exec_ret_of_used used, .inr (completes_returned s used)⟩
    · exact ⟨_, exec_ret_of_empty empty, .inl ⟨_, .underflow empty, rfl⟩⟩
  | drw x y n =>
    refine ⟨_, exec_drw_eq x y n s, ?_⟩
    split
    · exact .inr (completes_drawAt s x y n _ _ _)
    · exact .inl ⟨_, .address rfl, rfl⟩
  | ldB x =>
    refine ⟨_, exec_ldB_eq x s, ?_⟩
    split
    case isTrue inside => exact .inr (completes_putList s _ _ inside (.inr ⟨x, .inl rfl⟩))
    case isFalse => exact .inl ⟨_, .address rfl, rfl⟩
  | stRegs x =>
    refine ⟨_, exec_stRegs_eq x s, ?_⟩
    split
    case isTrue inside =>
      have fits : s.i.toNat + (s.regsUpTo x).length ≤ 0x1000 := by rw [s.length_regsUpTo]; omega
      exact .inr (completes_putList s _ _ fits (.inr ⟨x, .inr rfl⟩))
    case isFalse => exact .inl ⟨_, .address rfl, rfl⟩
  | ldRegs x =>
    refine ⟨_, exec_ldRegs_eq x s, ?_⟩
    split
    · exact .inr (completes_loadBlock s x _)
    · exact .inl ⟨_, .address rfl, rfl⟩

/-- `exec_effect` of an answer that is known. -/
theorem exec_cases {i : Instr} {s t : State} (h : exec i s = .next t) :
    (∃ e, RaisesIn s i e ∧ t = s.raise e) ∨ Completes i s t := by
  obtain ⟨u, hu, effect⟩ := exec_effect i s
  cases hu.symm.trans h
  exact effect

theorem Completes.not_halted {i : Instr} {s t : State} (h : Completes i s t) (hs : s.estate ≠ .halted) :
    t.estate ≠ .halted := by
  by_cases changed : t.estate = s.estate
  · rwa [changed]
  · rw [(h.estate changed).1]; decide

/-- Settles O43: what ends in Halted has raised its error, since a completion does not halt the engine. -/
theorem instructionErrorsArePrecise : Obligations.InstructionErrorsArePrecise := by
  intro i s t hs hexec ht
  rcases exec_cases hexec with ⟨e, hraise, rfl⟩ | completes
  · rw [← hraise.kind_eq]
    exact ⟨hraise.kind_ne_none, takesError_raise s e⟩
  · exact absurd ht (completes.not_halted hs)

/-- Settles O44: an error writes the engine state and the record alone, and a completion is `Completes`. -/
theorem stateIsWrittenOnlyByItsInstructions : Obligations.StateIsWrittenOnlyByItsInstructions := by
  intro i s t hexec
  rcases exec_cases hexec with ⟨e, hraise, rfl⟩ | c
  · have mayRaise : raises i ≠ .none := hraise.kind_eq ▸ hraise.kind_ne_none
    exact ⟨fun _ h => absurd rfl h, fun h => absurd rfl h, fun h => absurd rfl h, fun h => absurd rfl h,
      fun h => absurd rfl h, fun h => absurd rfl h, fun h => absurd rfl h, fun _ h => absurd rfl h,
      fun h => absurd rfl h, fun h => absurd rfl h, fun _ => .inr ⟨rfl, mayRaise⟩,
      fun _ => ⟨rfl, mayRaise, hraise.kind_eq⟩, rfl, rfl, rfl, rfl⟩
  · obtain ⟨sameKind, sameOpcode, sameAddr⟩ := c.record
    exact ⟨c.regs, c.pc, c.index, c.sp, c.disp, c.dt, c.st, c.mem, c.waitX, c.draws,
      fun h => .inl (c.estate h),
      fun h => absurd h (by rw [sameKind, sameOpcode, sameAddr]; simp), c.fixed⟩

/-! ### What an event can do -/

theorem State.executeHalf_answers (s : State) : ∃ t, s.executeHalf = .next t := by
  by_cases hr : s.estate = .ready
  · rw [State.executeHalf_ready hr]
    cases decode s.opcode with
    | ok i =>
      obtain ⟨t, ht, -⟩ := exec_effect i s
      exact ⟨t, ht⟩
    | error e => exact ⟨_, rfl⟩
  · exact ⟨s, State.executeHalf_not_ready hr⟩

/-- What the execute half can do: nothing outside Ready, else the latched instruction or the illegal word's error (R242). -/
theorem State.executeHalf_cases {s t : State} (h : s.executeHalf = .next t) :
    (s.estate ≠ .ready ∧ t = s) ∨
      (s.estate = .ready ∧ ∃ i, decode s.opcode = .ok i ∧ exec i s = .next t) ∨
      (s.estate = .ready ∧ legalWord s.opcode = false ∧ t = s.illegal) := by
  by_cases hr : s.estate = .ready
  · rw [State.executeHalf_ready hr] at h
    cases hd : decode s.opcode with
    | ok i =>
      rw [hd] at h
      exact .inr (.inl ⟨hr, i, rfl, h⟩)
    | error e =>
      rw [hd] at h
      cases h
      refine .inr (.inr ⟨hr, Bool.eq_false_iff.mpr fun hlegal => ?_, rfl⟩)
      obtain ⟨i, hi⟩ := (decodes_iff_legalWord s.opcode).mpr hlegal
      cases hd.symm.trans hi
  · rw [State.executeHalf_not_ready hr] at h
    cases h
    exact .inl ⟨hr, rfl⟩

/-- The engine step is the fetch half and then the execute half, in every engine state (R243). -/
theorem State.engineStep_eq (s : State) : s.engineStep = s.fetchHalf.executeHalf := by
  by_cases hr : s.estate = .ready
  · exact State.engineStep_eq_executeHalf hr
  · have idle : s.fetchHalf = s := if_neg hr
    rw [State.engineStep_not_ready hr, idle, State.executeHalf_not_ready hr]

theorem applyEvent_answers (e : Event) (s : State) : ∃ t, applyEvent e s = .next t := by
  cases e with
  | step =>
    obtain ⟨t, ht⟩ := s.fetchHalf.executeHalf_answers
    exact ⟨t, s.engineStep_eq.trans ht⟩
  | execute => exact s.executeHalf_answers
  | fetch | tick | key | reset | loadRom | snapshot => exact ⟨_, rfl⟩

/-- A step is one event: the first of the inbox, or the step event of the driving loop. -/
theorem step_eq_applyEvent (s : State) :
    ∃ e es, step s = applyEvent e (s.setInbox es) ∧
      (s.inbox = e :: es ∨ (e = .step ∧ s.inbox = [] ∧ es = [])) := by
  cases hin : s.inbox with
  | nil =>
    have same : s.setInbox [] = s := by cases s; cases hin; rfl
    refine ⟨.step, [], ?_, .inr ⟨rfl, rfl, rfl⟩⟩
    rw [same, step_of_empty hin]; rfl
  | cons e es => exact ⟨e, es, step_of_event hin, .inl rfl⟩

/-- Settles O12: a step is one event, and every event answers. -/
theorem everyStepAnswersANextState : Obligations.EveryStepAnswersANextState := by
  intro s
  obtain ⟨e, es, hstep, -⟩ := step_eq_applyEvent s
  rw [hstep]
  exact applyEvent_answers e _

end Sys2Proof.Machine

namespace Sys2Proof.Machine

/-! ### The invariant, operation by operation (R28, R36, R226) -/

/-- Taking an error keeps the invariant when the record is one that R226 lists. -/
theorem State.inv_enterError {s : State} (h : s.Inv) {e : Err} {op : Word} (hkind : e.kind ≠ .none)
    (hrecord : recordHolds e.kind op e.info.toNat = true) : (s.enterError e op).Inv := by
  obtain ⟨hwf, hstack, -⟩ := h
  exact ⟨hwf, hstack, ⟨fun none => absurd none hkind, fun alive => absurd rfl alive⟩, hrecord⟩

/-- Between two states that have not halted the invariant carries over with the record, memory being canonical and SP legal. -/
theorem State.inv_of_alive {s t : State} (h : s.Inv) (hs : s.estate ≠ .halted) (ht : t.estate ≠ .halted)
    (hwf : t.mem.wf = true) (hstack : t.StackOk)
    (hrecord : t.errKind = s.errKind ∧ t.errOpcode = s.errOpcode ∧ t.errAddr = s.errAddr) : t.Inv := by
  obtain ⟨-, -, hiff, hholds⟩ := h
  obtain ⟨hkind, hop, haddr⟩ := hrecord
  rw [State.Inv, State.RecordOk, hkind, hop, haddr]
  exact ⟨hwf, hstack, ⟨fun _ => ht, fun _ => hiff.mpr hs⟩, hholds⟩

theorem Instr.row_mem_indexedRows {i : Instr} (h : raises i = .addressOutOfRange) : i.row ∈ indexedRows := by
  cases i with
  | drw | ldB | stRegs | ldRegs => simp [indexedRows, Instr.row]
  | _ => cases h

/-- The record of an instruction's error is as R226 says, when the latch holds the instruction's word and SP is legal. -/
theorem RaisesIn.recordHolds {s : State} {i : Instr} {e : Err} (h : RaisesIn s i e) (hstack : s.StackOk)
    (hrow : i.row.accepts s.opcode = true) : recordHolds e.kind s.opcode e.info.toNat = true := by
  obtain ⟨low, high, -⟩ := hstack
  have spRecord : (s.sp.setWidth 17).toNat = s.sp.toNat := BitVec.toNat_setWidth_of_le (by decide)
  cases h with
  | overflow nnn full =>
    have atTop : s.sp.toNat = 0x6C := Nat.le_antisymm high full
    have callRow : (Instr.row (.call 0)).accepts s.opcode = true := hrow
    simp only [Machine.recordHolds, callRow, spRecord, atTop]; rfl
  | underflow empty =>
    have atBottom : s.sp.toNat = 0x4E := Nat.le_antisymm empty low
    have word : s.opcode = 0x00EE#16 := eq_of_accepts_maskFFFF hrow
    simp only [Machine.recordHolds, word, spRecord, atBottom]; rfl
  | address indexed =>
    have hi := s.i.isLt
    have indexedRow : indexedRows.any (fun r => r.accepts s.opcode) = true :=
      List.any_eq_true.mpr ⟨i.row, Instr.row_mem_indexedRows indexed, hrow⟩
    rw [Err.address_info s.max_index_lt]
    simp only [Machine.recordHolds, Err.address, indexedRow, Bool.true_and, Bool.or_eq_true, Bool.and_eq_true,
      decide_eq_true_eq]
    exact .inr ⟨by omega, by omega⟩

theorem State.inv_illegal {s : State} (h : s.Inv) (hw : legalWord s.opcode = false) : s.illegal.Inv := by
  have haddr := s.instrAddr.isLt
  refine State.inv_enterError h nofun ?_
  rw [BitVec.toNat_setWidth_of_le (by decide)]
  simp only [recordHolds, hw, Bool.not_false, Bool.true_and, decide_eq_true_eq]
  omega

theorem State.inv_fetchHalf {s : State} (h : s.Inv) : s.fetchHalf.Inv := by
  rw [State.fetchHalf, State.fetch_eq]
  split
  · split
    · exact h
    · exact State.inv_enterError h nofun (by decide)
  · exact h

theorem State.inv_executeHalf {s t : State} (h : s.Inv) (hstep : s.executeHalf = .next t) : t.Inv := by
  rcases State.executeHalf_cases hstep with ⟨-, rfl⟩ | ⟨hr, i, hd, hexec⟩ | ⟨-, hw, rfl⟩
  · exact h
  · have alive : s.estate ≠ .halted := by rw [hr]; decide
    have ⟨hwf, hstack, _⟩ := h
    rcases exec_cases hexec with ⟨e, hraise, rfl⟩ | completes
    · have hrow := row_accepts_of_decodeOption (decode_eq_ok_iff.mp hd)
      exact State.inv_enterError h hraise.kind_ne_none (hraise.recordHolds hstack hrow)
    · exact State.inv_of_alive h alive (completes.not_halted alive) (completes.wf hwf)
        (completes.stackOk hstack) completes.record
  · exact State.inv_illegal h hw

theorem State.inv_keyEvent {s : State} (h : s.Inv) (code : Byte) (down : Bool) : (s.keyEvent code down).Inv := by
  rcases s.keyEvent_cases code down with ⟨hs, -, hkey⟩ | ⟨-, hkey⟩
  · rw [hkey]
    have ⟨hwf, hstack, _⟩ := h
    exact State.inv_of_alive h (by rw [hs]; decide) nofun hwf hstack ⟨rfl, rfl, rfl⟩
  · rw [hkey]; exact h

theorem State.inv_tick {s : State} (h : s.Inv) : s.tick.Inv := by
  rcases s.tick_cases with ⟨-, ht⟩ | ⟨-, ht⟩ <;> rw [ht] <;> exact h

/-- A state with SP and the control state of a reset has the invariant with any canonical memory. -/
theorem State.inv_of_reset {s : State} (hwf : s.mem.wf = true) (hsp : s.sp = State.reset.sp)
    (hestate : s.estate = State.reset.estate) (hkind : s.errKind = State.reset.errKind)
    (hop : s.errOpcode = State.reset.errOpcode) (haddr : s.errAddr = State.reset.errAddr) : s.Inv := by
  have atReset : State.reset.StackOk ∧ State.reset.RecordOk := by decide
  rw [State.Inv, State.StackOk, State.RecordOk, hsp, hestate, hkind, hop, haddr]
  exact ⟨hwf, atReset⟩

theorem State.inv_resetBlock_setMem (s : State) {m : Memory} (h : m.wf = true) : (s.resetBlock.setMem m).Inv :=
  State.inv_of_reset h rfl rfl rfl rfl rfl

theorem State.inv_resetBlock (s : State) : s.resetBlock.Inv :=
  s.inv_resetBlock_setMem (State.wf_resetWith s.font)

theorem State.inv_loadRom (s : State) (rom : List Byte) : (s.loadRom rom).Inv := by
  have place {bs : List Byte} (fits : progBase + bs.length ≤ 0x1000) :
      (s.resetBlock.setMem (s.resetBlock.mem.putList progBase bs)).Inv :=
    s.inv_resetBlock_setMem (Memory.wf_putList bs (State.wf_resetWith s.font) fits)
  rw [State.loadRom, State.loadFrom_eq _ _ _ (by decide)]
  split
  case isTrue fits => exact place fits
  case isFalse =>
    refine State.inv_enterError (place ?_) nofun (by decide)
    rw [List.length_take, progBase]; omega

theorem applyEvent_keeps_inv {e : Event} {s t : State} (h : s.Inv) (he : applyEvent e s = .next t) : t.Inv := by
  cases e with
  | step => exact State.inv_executeHalf (State.inv_fetchHalf h) (s.engineStep_eq.symm.trans he)
  | execute => exact State.inv_executeHalf h he
  | fetch => cases he; exact State.inv_fetchHalf h
  | tick => cases he; exact State.inv_tick h
  | key code down => cases he; exact State.inv_keyEvent h code down
  | reset => cases he; exact s.inv_resetBlock
  | loadRom rom => cases he; exact s.inv_loadRom rom
  | snapshot => cases he; exact h

/-- Settles O56: a step is one event, and every event keeps the invariant. -/
theorem everyStepKeepsTheInvariant : Obligations.EveryStepKeepsTheInvariant := by
  intro s t h hstep
  obtain ⟨e, es, hevent, -⟩ := step_eq_applyEvent s
  exact applyEvent_keeps_inv (s := s.setInbox es) h (hevent.symm.trans hstep)

/-- Settles O55: SP is the empty stack's, there is no record, and the font is written canonically. -/
theorem invariantHoldsAtReset : Obligations.InvariantHoldsAtReset := fun f _ =>
  ⟨State.inv_of_reset rfl rfl rfl rfl rfl rfl, State.inv_of_reset (State.wf_resetWith f) rfl rfl rfl rfl rfl⟩

/-! ### The parameter FONT -/

theorem State.font_fetchHalf (s : State) : s.fetchHalf.font = s.font := by
  rw [State.fetchHalf, State.fetch_eq]
  split
  · split <;> rfl
  · rfl

theorem State.font_executeHalf {s t : State} (h : s.executeHalf = .next t) : t.font = s.font := by
  rcases State.executeHalf_cases h with ⟨-, rfl⟩ | ⟨-, i, -, hexec⟩ | ⟨-, -, rfl⟩
  · rfl
  · rcases exec_cases hexec with ⟨e, -, rfl⟩ | completes
    · rfl
    · obtain ⟨-, -, -, hfont⟩ := completes.fixed
      exact hfont
  · rfl

theorem State.font_loadRom (s : State) (rom : List Byte) : (s.loadRom rom).font = s.font := by
  rw [State.loadRom, State.loadFrom_eq _ _ _ (by decide)]
  split <;> rfl

theorem State.font_keyEvent (s : State) (code : Byte) (down : Bool) : (s.keyEvent code down).font = s.font := by
  rcases s.keyEvent_cases code down with ⟨-, -, h⟩ | ⟨-, h⟩ <;> exact (congrArg State.font h).trans rfl

theorem State.font_tick (s : State) : s.tick.font = s.font := by
  rcases s.tick_cases with ⟨-, h⟩ | ⟨-, h⟩ <;> exact (congrArg State.font h).trans rfl

theorem applyEvent_keeps_font {e : Event} {s t : State} (he : applyEvent e s = .next t) : t.font = s.font := by
  cases e with
  | step => exact (State.font_executeHalf (s.engineStep_eq.symm.trans he)).trans s.font_fetchHalf
  | execute => exact State.font_executeHalf he
  | fetch => cases he; exact s.font_fetchHalf
  | tick => cases he; exact s.font_tick
  | key code down => cases he; exact s.font_keyEvent code down
  | reset => cases he; rfl
  | loadRom rom => cases he; exact s.font_loadRom rom
  | snapshot => cases he; rfl

theorem step_keeps_font {s t : State} (hstep : step s = .next t) : t.font = s.font := by
  obtain ⟨e, es, hevent, -⟩ := step_eq_applyEvent s
  exact applyEvent_keeps_font (s := s.setInbox es) (hevent.symm.trans hstep)

/-- Above the font an unlisted address reads as 0x00 (R260, D21). -/
theorem Memory.unlisted_above {a : Nat} (h : 80 ≤ a) : Memory.unlisted a = 0x00#8 :=
  List.getD_eq_default _ _ h

/-- Settles O58: the reset memory is `State.get_resetWith` of the machine's own font. -/
theorem fontIsAParameterOfTheMachine : Obligations.FontIsAParameterOfTheMachine := by
  refine ⟨fun s t => step_keeps_font, fun s es hin => ⟨_, step_of_event hin, fun k hk => ?_, fun a ha => ?_⟩,
    State.resetWith_default⟩
  · show (State.resetWith s.font).mem.get k = s.font[k]
    rw [State.get_resetWith, if_pos hk, List.getD_eq_getElem _ _ (by simpa using hk), Vector.getElem_toList]
  · show (State.resetWith s.font).mem.get a = 0x00#8
    rw [State.get_resetWith, if_neg (Nat.not_lt.mpr ha), Memory.unlisted_above ha]

/-! ### Runs -/

theorem run_succ_of_step {M : Host.Core} {s u : M.State} (h : M.step s = .next u) (n : Nat) :
    M.run (n + 1) s = M.run n u := by
  rw [Host.Core.run, h]

/-- From a state with the invariant a run of any length answers a state with the invariant and the same font. -/
theorem run_keeps_inv_and_font (n : Nat) {s : State} (h : s.Inv) :
    ∃ t : State, Host.Core.run Sys2Proof.core n s = .next t ∧ t.Inv ∧ t.font = s.font := by
  induction n generalizing s with
  | zero => exact ⟨s, rfl, h, rfl⟩
  | succ n ih =>
    obtain ⟨u, hstep⟩ := everyStepAnswersANextState s
    obtain ⟨t, hrun, hinv, hfont⟩ := ih (everyStepKeepsTheInvariant s u h hstep)
    exact ⟨t, (run_succ_of_step hstep n).trans hrun, hinv, hfont.trans (step_keeps_font hstep)⟩

/-- Settles O57: the invariant holds at reset, and every step answers and keeps it. -/
theorem everyRunUnderAnyEventsKeepsTheInvariant : Obligations.EveryRunUnderAnyEventsKeepsTheInvariant := by
  intro f es n
  obtain ⟨atReset, atResetWith⟩ := invariantHoldsAtReset f es
  obtain ⟨t, hrun, hinv, -⟩ := run_keeps_inv_and_font n atReset
  exact ⟨⟨t, hrun, hinv⟩, run_keeps_inv_and_font n atResetWith⟩

end Sys2Proof.Machine

namespace Sys2Proof.Machine

/-! ### The half-steps (R241, R242) and the fetch at the top of memory (R26) -/

theorem State.fetchHalf_of_room {s : State} (hr : s.estate = .ready) (hpc : s.pc.toNat ≤ 0xFFE) :
    s.fetchHalf = s.latch (joinBytes (s.mem.get s.pc.toNat) (s.mem.get (s.pc.toNat + 1))) := by
  rw [State.fetchHalf, if_pos hr, State.fetch_eq, if_pos hpc]

/-- The address of the instruction whose fetch has advanced PC, as a number (R242). -/
theorem State.toNat_instrAddr (s : State) : s.instrAddr.toNat = (s.pc.toNat + 0xFFE) % 0x1000 := by
  rw [State.instrAddr, BitVec.toNat_sub, Nat.add_comm]; rfl

theorem State.executeHalf_of_decode {s : State} {i : Instr} (hr : s.estate = .ready)
    (hd : decode s.opcode = .ok i) : s.executeHalf = exec i s := by
  rw [State.executeHalf_ready hr, hd]

theorem State.executeHalf_of_illegalWord {s : State} (hr : s.estate = .ready)
    (hw : legalWord s.opcode = false) : s.executeHalf = .next s.illegal := by
  rw [State.executeHalf_ready hr, decode_of_illegalWord hw]

/-- Settles O9: the fetch is `State.latch`, the execute a case of the decoder; outside Ready both are the identity. -/
theorem halfStepsFetchAndExecuteTheLatch : Obligations.HalfStepsFetchAndExecuteTheLatch := by
  intro s es
  refine ⟨fun hin hr hpc => ?_, fun i hin hr hd => ?_, fun hin hr hw => ?_, fun hin hr => ?_⟩
  · refine ⟨(s.setInbox es).latch (joinBytes (s.mem.get s.pc.toNat) (s.mem.get (s.pc.toNat + 1))),
      ?_, ?_, ?_, rfl⟩
    · rw [step_of_event hin]
      exact congrArg Host.Outcome.next (State.fetchHalf_of_room hr hpc)
    · rw [State.latch_opcode, toNat_joinBytes]
    · rw [State.latch_pc, BitVec.toNat_ofNat]; rfl
  · exact (step_of_event hin).trans (State.executeHalf_of_decode (s := s.setInbox es) hr hd)
  · refine ⟨_, (step_of_event hin).trans (State.executeHalf_of_illegalWord (s := s.setInbox es) hr hw), ?_⟩
    have taken := takesError_illegal (s.setInbox es)
    rwa [State.toNat_instrAddr] at taken
  · rcases hin with hin | hin <;> rw [step_of_event hin]
    · exact congrArg Host.Outcome.next (if_neg hr)
    · exact State.executeHalf_not_ready hr

/-- Settles O10: the engine step is the fetch's error, whose record holds no word. -/
theorem fetchAtTopOfMemoryHalts : Obligations.FetchAtTopOfMemoryHalts := by
  intro s hin hr hpc
  refine ⟨s.enterError (.address 0x1000) 0x0000#16, ?_, takesError_enterError s (.address 0x1000) 0x0000#16⟩
  rw [step_of_empty hin, State.engineStep_ready hr, if_neg (by omega)]

/-! ### The stack (R29) -/

/-- The state after a push that finds a free slot. -/
def State.pushed (s : State) (w : Word) : State :=
  (s.setSp (s.sp.toNat + 2)).setMem (s.mem.putWord (s.sp.toNat + 2) w)

theorem State.push_of_room {s : State} (w : Word) (room : s.sp.toNat < 0x6C) : s.push w = .ok (s.pushed w) := by
  rw [State.push_eq, if_neg (Nat.not_le.mpr room), State.pushed, Memory.putWord]

@[simp] theorem State.pushed_mem (s : State) (w : Word) :
    (s.pushed w).mem = s.mem.putWord (s.sp.toNat + 2) w := rfl

theorem State.toNat_sp_pushed {s : State} (w : Word) (room : s.sp.toNat < 0x6C) :
    (s.pushed w).sp.toNat = s.sp.toNat + 2 := by
  rw [State.pushed, State.setMem_sp, State.setSp_sp, BitVec.toNat_ofNat, Nat.mod_eq_of_lt (by omega)]

theorem State.pop_of_used {s : State} (used : 0x4E < s.sp.toNat) :
    s.pop = .ok (joinBytes (s.mem.get s.sp.toNat) (s.mem.get (s.sp.toNat + 1)), s.setSp (s.sp.toNat - 2)) := by
  rw [State.pop_eq, if_neg (Nat.not_le.mpr used)]

/-- Popping what was pushed gives the word back, and the state but for the slot's bytes. -/
theorem State.pop_pushed {s : State} (w : Word) (room : s.sp.toNat < 0x6C) (legal : 0x4E ≤ s.sp.toNat) :
    (s.pushed w).pop = .ok (w, { s with mem := (s.pushed w).mem }) := by
  have hsp := State.toNat_sp_pushed w room
  rw [State.pop_of_used (by omega), hsp, State.pushed_mem, Memory.get_putWord_high,
    Memory.get_putWord_low, joinBytes_high_low, Nat.add_sub_cancel, State.pushed, State.setSp, State.setMem,
    State.setSp, BitVec.ofNat_toNat, BitVec.setWidth_eq]

/-- Settles O15: with room a push is `State.pushed` and a pop undoes it; at either end SP is recorded. -/
theorem pushAndPopUseTheMemoryStack : Obligations.PushAndPopUseTheMemoryStack := by
  intro s w
  have spRecord : (s.sp.setWidth 17).toNat = s.sp.toNat := BitVec.toNat_setWidth_of_le (by decide)
  refine ⟨fun room => ⟨s.pushed w, State.push_of_room w room, State.toNat_sp_pushed w room, ?_, ?_,
      fun a hhi hlo => ?_, rfl, fun ⟨low, high, even⟩ => ?_,
      fun legal => ⟨_, State.pop_pushed w room legal, rfl⟩⟩,
    fun full => ⟨⟨.stackOverflow, s.sp.setWidth 17⟩, ?_, rfl, spRecord⟩,
    fun used => ⟨_, _, State.pop_of_used used, toNat_joinBytes _ _, ?_, rfl⟩,
    fun empty => ⟨⟨.stackUnderflow, s.sp.setWidth 17⟩, ?_, rfl, spRecord⟩⟩
  · rw [State.pushed_mem, Memory.get_putWord_high, toNat_highByte]
  · rw [State.pushed_mem, Memory.get_putWord_low, toNat_lowByte]
  · rw [State.pushed_mem, Memory.get_putWord_ne _ _ hhi hlo]
  · rw [State.toNat_sp_pushed w room]; omega
  · rw [State.push_eq, if_pos full]
  · have hsp := s.sp.isLt
    rw [State.setSp_sp, BitVec.toNat_ofNat, Nat.mod_eq_of_lt (by omega)]
  · rw [State.pop_eq, if_pos empty]

/-- A return writes SP and PC alone, so it keeps the frame of what ran before it. -/
theorem onlyMemorySpPc_returned_of {s t : State} (h : OnlyMemorySpPc s t) : OnlyMemorySpPc s t.returned := h

/-- The return finds the word the call pushed. -/
theorem State.pc_returned_called {s : State} (nnn : Addr) (room : s.sp.toNat < 0x6C) :
    (s.called nnn).returned.pc = s.pc := by
  have hpc := s.pc.isLt
  apply BitVec.eq_of_toNat_eq
  rw [State.toNat_pc_returned, State.toNat_sp_called room, State.called_mem, Memory.get_putWord_high,
    Memory.get_putWord_low, toNat_highByte, toNat_lowByte, toNat_addr_as_word]
  omega

theorem State.sp_returned_called {s : State} (nnn : Addr) (room : s.sp.toNat < 0x6C) :
    (s.called nnn).returned.sp = s.sp := by
  apply BitVec.eq_of_toNat_eq
  rw [State.toNat_sp_returned, State.toNat_sp_called room, Nat.add_sub_cancel]

/-- Settles O26: after `State.called` a slot is in use, so the return is `State.returned`. -/
theorem callThenReturnComesBack : Obligations.CallThenReturnComesBack := by
  intro nnn s legal room
  have used : 0x4E < (s.called nnn).sp.toNat := by rw [State.toNat_sp_called room]; omega
  refine ⟨_, _, exec_call_of_room room nnn, exec_ret_of_used used, State.pc_returned_called nnn room,
    State.sp_returned_called nnn room, fun a hhi hlo => ?_,
    onlyMemorySpPc_returned_of (onlyMemorySpPc_called s nnn)⟩
  rw [State.returned_mem, State.called_mem, Memory.get_putWord_ne _ _ hhi hlo]

/-- Settles O18: each of the three is one `State.setV`, and the operators act bit by bit. -/
theorem logicOperationsWorkBitByBit : Obligations.LogicOperationsWorkBitByBit := by
  intro x y s
  refine ⟨⟨_, rfl, rfl, onlyRegs_setV s x _, fun k => ?_⟩, ⟨_, rfl, rfl, onlyRegs_setV s x _, fun k => ?_⟩,
    ⟨_, rfl, rfl, onlyRegs_setV s x _, fun k => ?_⟩⟩ <;> rw [State.getV_setV_same]
  · exact BitVec.getLsbD_or
  · exact BitVec.getLsbD_and
  · exact BitVec.getLsbD_xor

/-! ### Drawing twice (R164, R165) -/

theorem State.disp_drawAt_drawAt (s : State) (vx vy : Byte) (m : Memory) (i n : Nat) :
    ((s.drawAt vx vy (m.getList i n)).drawAt vx vy (m.getList i n)).disp = s.disp := by
  refine Framebuffer.ext_cell fun p q => ?_
  rw [State.cell_drawAt_getList, State.cell_drawAt_getList, Bool.xor_assoc, Bool.xor_self, Bool.xor_false]

/-- A display that differs from a blank one has a set cell. -/
theorem Framebuffer.exists_set_of_ne {d e : Framebuffer} (blank : ∀ p q, d.cell p q = false) (h : e ≠ d) :
    ∃ p q, e.cell p q = true := by
  by_contra none
  refine h (Framebuffer.ext_cell fun p q => ?_)
  rw [blank p q]
  exact Bool.eq_false_iff.mpr fun hset => none ⟨p, q, hset⟩

theorem exec_drw_of_inside {s : State} (x y : RegNum) {n : Nibble}
    (inside : n.toNat = 0 ∨ s.i.toNat + n.toNat ≤ 0x1000) :
    exec (.drw x y n) s = .next (s.drawAt (s.getV x) (s.getV y) (s.mem.getList s.i.toNat n.toNat)) := by
  rw [exec_drw_eq, if_pos inside]

/-- A draw leaves the operands of the next draw alone, VF not being one of them. -/
theorem exec_drw_of_drawn {s : State} {x y : RegNum} (hx : x ≠ 0xF#4) (hy : y ≠ 0xF#4) {n : Nibble}
    (inside : n.toNat = 0 ∨ s.i.toNat + n.toNat ≤ 0x1000) (vx vy : Byte) (rows : List Byte) :
    exec (.drw x y n) (s.drawAt vx vy rows) =
      .next ((s.drawAt vx vy rows).drawAt (s.getV x) (s.getV y) (s.mem.getList s.i.toNat n.toNat)) := by
  rw [exec_drw_of_inside (s := s.drawAt vx vy rows) x y inside, State.getV_drawAt_ne _ _ _ _ hx,
    State.getV_drawAt_ne _ _ _ _ hy]
  rfl

/-- Settles O31: the second draw has the operands of the first and clears what the first set. -/
theorem drawingTwiceErases : Obligations.DrawingTwiceErases := by
  intro x y n s hx hy inside
  have back := s.disp_drawAt_drawAt (s.getV x) (s.getV y) s.mem s.i.toNat n.toNat
  refine ⟨_, _, exec_drw_of_inside x y inside, exec_drw_of_drawn hx hy inside _ _ _, back,
    fun blank => ⟨?_, fun changed => ?_⟩⟩
  · exact State.flag_drawAt_of_kept fun p q hset => absurd ((blank p q).symm.trans hset) Bool.false_ne_true
  · obtain ⟨p, q, hset⟩ := Framebuffer.exists_set_of_ne blank changed
    exact State.flag_drawAt_of_cleared ⟨p, q, hset, by rw [back, blank]⟩

end Sys2Proof.Machine

namespace Sys2Proof.Machine

/-! ### Key events and ticks (R185, R188, R189) -/

/-- The latch after a key event: the key the code names, and no other (R180). -/
theorem getElem_keys_setKey (s : State) {code : Byte} {down : Bool} {k : Nibble} (hk : k.toNat = code.toNat % 16)
    (j : Nibble) : (s.setKey code down).keys[j.toNat] = if j = k then down else s.keys[j.toNat] := by
  simp only [State.setKey_keys, keyNumber_eq_of_toNat hk, Vector.getElem_set, BitVec.toNat_inj, eq_comm]

theorem State.keyEvent_of_wait {s : State} (hs : s.estate = .waitingForKey) (code : Byte) :
    s.keyEvent code true = (s.setKey code true).endWait code := if_pos ⟨hs, rfl⟩

theorem State.keyEvent_up (s : State) (code : Byte) : s.keyEvent code false = s.setKey code false := if_neg nofun

theorem State.keyEvent_of_no_wait {s : State} (hs : s.estate ≠ .waitingForKey) (code : Byte) (down : Bool) :
    s.keyEvent code down = s.setKey code down := if_neg fun h => hs h.1

/-- The key number the end of a wait writes is the code's low nibble (R185, D7). -/
theorem toNat_keyNumber_as_byte (code : Byte) : ((keyNumber code).setWidth 8).toNat = code.toNat % 16 := by
  rw [BitVec.toNat_setWidth_of_le (by decide), keyNumber, BitVec.toNat_setWidth]

/-- Settles O34: a key-down event is `State.setKey` and then `State.endWait`, a key-up event `State.setKey` alone. -/
theorem keyDownEndsTheWait : Obligations.KeyDownEndsTheWait := by
  intro s code down es k hin hs hk
  cases down with
  | true =>
    refine ⟨((s.setInbox es).setKey code true).endWait code, ?_, getElem_keys_setKey (s.setInbox es) hk,
      fun _ => ⟨rfl, ?_, ?_⟩, nofun⟩
    · rw [step_of_event hin]
      exact congrArg Host.Outcome.next (State.keyEvent_of_wait (s := s.setInbox es) hs code)
    · exact (congrArg BitVec.toNat (State.getV_setV_same _ s.waitX _)).trans (toNat_keyNumber_as_byte code)
    · exact onlyRegs_setV { s with keys := _, estate := .ready, inbox := es } s.waitX _
  | false =>
    refine ⟨(s.setInbox es).setKey code false, ?_, getElem_keys_setKey (s.setInbox es) hk, nofun,
      fun _ => onlyRegs_refl [] _⟩
    rw [step_of_event hin]
    exact congrArg Host.Outcome.next (State.keyEvent_up _ code)

/-- Settles O35: outside WaitingForKey a key event is `State.setKey` alone. -/
theorem otherKeyEventsOnlyUpdateTheLatch : Obligations.OtherKeyEventsOnlyUpdateTheLatch := by
  intro s code down es k hin hs hk
  refine ⟨(s.setInbox es).setKey code down, ?_, getElem_keys_setKey (s.setInbox es) hk, onlyRegs_refl [] _⟩
  rw [step_of_event hin]
  exact congrArg Host.Outcome.next (State.keyEvent_of_no_wait (s := s.setInbox es) hs code down)

/-- Settles O36: the two outcomes of `State.tick_cases`. -/
theorem tickCountsTheTimersDown : Obligations.TickCountsTheTimersDown := by
  intro s es hin
  refine ⟨_, step_of_event hin, ?_⟩
  rcases (s.setInbox es).tick_cases with ⟨hs, ht⟩ | ⟨hs, ht⟩ <;> rw [ht]
  · exact ⟨fun alive => absurd hs alive, fun _ => ⟨rfl, rfl⟩, onlyRegs_refl [] _⟩
  · exact ⟨fun _ => ⟨toNat_countDown s.dt, toNat_countDown s.st⟩, fun halted => absurd halted hs,
      onlyRegs_refl [] _⟩

/-! ### Stored blocks (R205, R206) -/

theorem exec_stRegs_of_inside {s : State} {x : RegNum} (inside : s.i.toNat + x.toNat ≤ 0xFFF) :
    exec (.stRegs x) s = .next (s.setMem (s.mem.putList s.i.toNat (s.regsUpTo x))) := by
  rw [exec_stRegs_eq, if_pos inside]

theorem exec_ldRegs_of_inside {s : State} {x : RegNum} (inside : s.i.toNat + x.toNat ≤ 0xFFF) :
    exec (.ldRegs x) s = .next (s.setRegs (fillRegs s.v 0 (s.mem.getList s.i.toNat (x.toNat + 1)))) := by
  rw [exec_ldRegs_eq, if_pos inside]

/-- Settles O41: the load reads the bytes the store put, at the same I. -/
theorem storedBlockIsLoadedBack : Obligations.StoredBlockIsLoadedBack := by
  intro x s u inside
  refine ⟨_, exec_stRegs_of_inside inside, fun hi hmem => ?_⟩
  have inside' : u.i.toNat + x.toNat ≤ 0xFFF := by rwa [hi]
  refine ⟨_, exec_ldRegs_of_inside inside', fun r hr => ?_⟩
  rw [State.getV_setRegs_fillRegs_getList, if_pos hr, hmem, hi]
  exact s.get_putList_regsUpTo_inside _ _ hr

/-- A fetch event in Ready latches the word at PC (R241). -/
theorem step_fetch_of_room {s : State} (hin : s.inbox = []) (hr : s.estate = .ready) (hpc : s.pc.toNat ≤ 0xFFE) :
    step { s with inbox := [.fetch] } =
      .next (s.latch (joinBytes (s.mem.get s.pc.toNat) (s.mem.get (s.pc.toNat + 1)))) := by
  rw [step_with_event hin, ← State.fetchHalf_of_room hr hpc]; rfl

/-- Settles O42: the word at PC is the two register bytes stored there. -/
theorem storeIsSeenByTheNextFetch : Obligations.StoreIsSeenByTheNextFetch := by
  intro x k s hin hr inside hk hpc
  have hx := x.isLt
  have next : (k + 1#4).toNat = k.toNat + 1 := by
    rw [BitVec.toNat_add, BitVec.toNat_ofNat]; omega
  refine ⟨_, exec_stRegs_of_inside inside, _,
    step_fetch_of_room (s := s.setMem _) hin hr (by rw [State.setMem_pc]; omega), ?_⟩
  rw [State.latch_opcode, State.setMem_pc, State.setMem_mem, hpc,
    s.get_putList_regsUpTo_inside _ _ (Nat.le_of_lt hk), Nat.add_assoc, ← next,
    s.get_putList_regsUpTo_inside _ _ (by omega)]

/-! ### Halted and WaitingForKey (R233, R254) -/

/-- Settles O46: of the events that neither reset nor load only a key event does anything in Halted. -/
theorem haltedKeepsEverythingButTheLatch : Obligations.HaltedKeepsEverythingButTheLatch := by
  intro s t hs hstep noReset noLoad
  cases hin : s.inbox with
  | nil =>
    rw [step_of_empty hin, State.engineStep_not_ready (by rw [hs]; decide)] at hstep
    cases hstep
    exact ⟨onlyRegs_refl [] s, hin, fun h => absurd rfl h⟩
  | cons e es =>
    rw [step_of_event hin] at hstep
    obtain rfl | ⟨rom, rfl⟩ | idle | ⟨code, down, rfl, latched⟩ :=
      applyEvent_of_halted (s := s.setInbox es) hs e
    · exact absurd hin (noReset es)
    · exact absurd hin (noLoad rom es)
    · cases idle.symm.trans hstep
      exact ⟨onlyRegs_refl [] (s.setInbox es), rfl, fun h => absurd rfl h⟩
    · cases latched.symm.trans hstep
      exact ⟨onlyRegs_refl [] ((s.setInbox es).setKey code down), rfl, fun _ => ⟨code, down, es, rfl⟩⟩

/-- An event that leaves WaitingForKey is a key-down event, a reset or a ROM load. -/
theorem event_of_leaves_wait {e : Event} {s t : State} (hs : s.estate = .waitingForKey)
    (he : applyEvent e s = .next t) (ht : t.estate ≠ .waitingForKey) :
    (∃ code, e = .key code true) ∨ e = .reset ∨ ∃ rom, e = .loadRom rom := by
  have notReady : s.estate ≠ .ready := by rw [hs]; decide
  have stays (idle : applyEvent e s = .next s) : False := by
    cases idle.symm.trans he
    exact ht hs
  cases e with
  | key code down =>
    cases down with
    | true => exact .inl ⟨code, rfl⟩
    | false =>
      cases he
      rw [State.keyEvent_up] at ht
      exact absurd hs ht
  | reset => exact .inr (.inl rfl)
  | loadRom rom => exact .inr (.inr ⟨rom, rfl⟩)
  | step => exact (stays (State.engineStep_not_ready notReady)).elim
  | fetch => exact (stays (congrArg Host.Outcome.next (if_neg notReady))).elim
  | execute => exact (stays (State.executeHalf_not_ready notReady)).elim
  | snapshot => exact (stays rfl).elim
  | tick =>
    cases he
    rcases s.tick_cases with ⟨-, h⟩ | ⟨-, h⟩ <;> rw [h] at ht <;> exact absurd hs ht

/-- Settles O47: the engine step of the driving loop leaves no wait, so it was an event of the inbox. -/
theorem onlyKeyDownResetOrLoadLeavesTheWait : Obligations.OnlyKeyDownResetOrLoadLeavesTheWait := by
  intro s t hs hstep ht
  obtain ⟨e, es, hevent, hin⟩ := step_eq_applyEvent s
  rcases event_of_leaves_wait (s := s.setInbox es) hs (hevent.symm.trans hstep) ht
    with ⟨code, rfl⟩ | rfl | ⟨rom, rfl⟩
  all_goals have hin := hin.resolve_right nofun
  · exact ⟨es, .inl ⟨code, hin⟩⟩
  · exact ⟨es, .inr (.inl hin)⟩
  · exact ⟨es, .inr (.inr ⟨rom, hin⟩)⟩

end Sys2Proof.Machine

namespace Sys2Proof.Machine

/-! ### Reset and ROM load (R260, R264) -/

/-- Settles O48: the reset state is a literal; its memory lists nothing, so it reads as `Memory.unlisted`. -/
theorem resetStateHasTheSpecValues : Obligations.ResetStateHasTheSpecValues :=
  ⟨fun _ => Vector.getElem_replicate _, rfl, rfl, rfl, rfl, rfl, Framebuffer.cell_blank,
    fun _ => Vector.getElem_replicate _, rfl, rfl, rfl, rfl, rfl, rfl, rfl, fun _ => Memory.unlisted_above⟩

/-- Settles O49: a reset event is `State.resetBlock`, which reads only the font and the model's own fields. -/
theorem resetIsAcceptedInEveryStateAndIdempotent : Obligations.ResetIsAcceptedInEveryStateAndIdempotent :=
  fun s es hin => ⟨_, step_of_event hin, rfl,
    step_of_event (s := { (s.setInbox es).resetBlock with inbox := .reset :: es }) rfl⟩

/-- A ROM that fits is placed from 0x200 on (R264). -/
theorem State.loadRom_of_fits (s : State) {rom : List Byte} (fits : rom.length ≤ 0xE00) :
    s.loadRom rom = s.resetBlock.setMem (s.resetBlock.mem.putList 0x200 rom) := by
  rw [State.loadRom, State.loadFrom_eq _ _ _ (by decide), if_pos (by rw [progBase]; omega), progBase]

/-- A ROM that is too long leaves its first 0xE00 bytes and the error of the first byte above memory (R264, D22). -/
theorem State.loadRom_of_too_long (s : State) {rom : List Byte} (long : 0xE00 < rom.length) :
    s.loadRom rom = (s.resetBlock.setMem (s.resetBlock.mem.putList 0x200 (rom.take 0xE00))).enterError
      (.address 0x1000) 0x0000#16 := by
  rw [State.loadRom, State.loadFrom_eq _ _ _ (by decide), if_neg (by rw [progBase]; omega), progBase]

/-- The bytes of a ROM in memory from 0x200 on, as far as memory reaches. -/
theorem State.mem_loadRom (s : State) (rom : List Byte) :
    (s.loadRom rom).mem = (State.resetWith s.font).mem.putList 0x200 (rom.take 0xE00) := by
  rcases Nat.lt_or_ge 0xE00 rom.length with long | fits
  · rw [State.loadRom_of_too_long s long]; rfl
  · rw [State.loadRom_of_fits s fits, List.take_of_length_le fits]; rfl

/-- Settles O50: the bytes that fit are placed, and one byte more raises the error. -/
theorem romLoadCopiesVerbatimFrom200 : Obligations.RomLoadCopiesVerbatimFrom200 := by
  intro s rom es hin
  refine ⟨(s.setInbox es).loadRom rom, step_of_event hin, fun k hk hfit => ?_, fun a ha => ?_, fun fits => ?_,
    fun long => ?_⟩
  · rw [State.mem_loadRom, Memory.get_putList_inside _ _ (by rw [List.length_take]; omega),
      List.getD_eq_getElem _ _ (by rw [List.length_take]; omega), List.getElem_take, List.getD_eq_getElem _ _ hk]
  · rw [State.mem_loadRom, Memory.get_putList_outside _ (by rw [List.length_take]; omega)]; rfl
  · rw [State.loadRom_of_fits _ fits]; rfl
  · rw [State.loadRom_of_too_long _ long]
    exact takesError_enterError _ (.address 0x1000) 0x0000#16

/-! ### A parked engine (R254) -/

theorem State.readWord_eq_ok_iff {s : State} {a : Nat} {w : Word} :
    s.readWord a = .ok w ↔ a ≤ 0xFFE ∧ joinBytes (s.mem.get a) (s.mem.get (a + 1)) = w := by
  rw [State.readWord_eq]
  by_cases h : a ≤ 0xFFE <;> simp [h]

/-- A self-jump is fetched, decoded and run, and leaves PC where it was. -/
theorem step_of_parked {s : State} (hin : s.inbox = []) (parked : s.Parked) :
    step s = .next { s with opcode := encode (.jp s.pc) } := by
  obtain ⟨hr, hread⟩ := parked
  obtain ⟨hpc, hword⟩ := State.readWord_eq_ok_iff.mp hread
  have back : BitVec.ofNat 12 s.pc.toNat = s.pc := by rw [BitVec.ofNat_toNat, BitVec.setWidth_eq]
  rw [step_of_empty hin, State.engineStep_of_decode hr hpc (by rw [hword, decode_encode]), hword]
  show Host.Outcome.next ((s.latch (encode (.jp s.pc))).setPc s.pc.toNat) = _
  rw [State.setPc, back]; rfl

/-- Settles O51: the step writes the latch alone, so the state is parked again. -/
theorem parkedEngineStays : Obligations.ParkedEngineStays := fun s hin parked =>
  ⟨_, step_of_parked hin parked, rfl, parked,
    step_of_parked (s := { s with opcode := encode (.jp s.pc) }) hin parked⟩

/-! ### The sound timer is read by no step (R32) -/

/-- Two states that differ at most in ST. -/
abbrev EqualButSt (s u : State) : Prop := u = { s with st := u.st }

theorem EqualButSt.ite {p : Prop} [Decidable p] {s t s' t' : State} (hs : EqualButSt s s') (ht : EqualButSt t t') :
    EqualButSt (if p then s else t) (if p then s' else t') := by
  by_cases h : p
  · rwa [if_pos h, if_pos h]
  · rwa [if_neg h, if_neg h]

theorem exec_setSt (i : Instr) (s : State) (b : Byte) :
    ∃ t u, exec i s = .next t ∧ exec i (s.setSt b) = .next u ∧ EqualButSt t u := by
  cases i with
  | ret => exact ⟨_, _, exec_ret_eq _, exec_ret_eq _, EqualButSt.ite rfl rfl⟩
  | call => exact ⟨_, _, exec_call_eq _ _, exec_call_eq _ _, EqualButSt.ite rfl rfl⟩
  | drw => exact ⟨_, _, exec_drw_eq _ _ _ _, exec_drw_eq _ _ _ _, EqualButSt.ite rfl rfl⟩
  | ldB => exact ⟨_, _, exec_ldB_eq _ _, exec_ldB_eq _ _, EqualButSt.ite rfl rfl⟩
  | stRegs => exact ⟨_, _, exec_stRegs_eq _ _, exec_stRegs_eq _ _, EqualButSt.ite rfl rfl⟩
  | ldRegs => exact ⟨_, _, exec_ldRegs_eq _ _, exec_ldRegs_eq _ _, EqualButSt.ite rfl rfl⟩
  | seImm | sneImm | seReg | sneReg | skp | sknp => exact ⟨_, _, rfl, rfl, EqualButSt.ite rfl rfl⟩
  | _ => exact ⟨_, _, rfl, rfl, rfl⟩

theorem State.fetchHalf_setSt (s : State) (b : Byte) : (s.setSt b).fetchHalf = s.fetchHalf.setSt b := by
  rw [State.fetchHalf, State.fetchHalf, State.fetch_eq, State.fetch_eq, apply_ite (fun t => State.setSt t b),
    apply_ite (fun t => State.setSt t b)]
  rfl

theorem State.executeHalf_setSt (s : State) (b : Byte) :
    ∃ t u, s.executeHalf = .next t ∧ (s.setSt b).executeHalf = .next u ∧ EqualButSt t u := by
  by_cases hr : s.estate = .ready
  · rw [State.executeHalf_ready hr, State.executeHalf_ready (s := s.setSt b) hr, State.setSt_opcode]
    cases decode s.opcode with
    | ok i => exact exec_setSt i s b
    | error => exact ⟨_, _, rfl, rfl, rfl⟩
  · exact ⟨_, _, State.executeHalf_not_ready hr, State.executeHalf_not_ready (s := s.setSt b) hr, rfl⟩

/-- Settles O52: the two machines fetch the same word, and no instruction reads ST. -/
theorem noStepDependsOnTheSoundTimer : Obligations.NoStepDependsOnTheSoundTimer := by
  intro s b hin
  obtain ⟨t, u, ht, hu, same⟩ := s.fetchHalf.executeHalf_setSt b
  rw [← State.fetchHalf_setSt] at hu
  exact ⟨t, u, (step_of_empty hin).trans (s.engineStep_eq.trans ht),
    (step_of_empty (s := s.setSt b) hin).trans ((s.setSt b).engineStep_eq.trans hu), same⟩

/-! ### Snapshot and ports (R244, R247) -/

/-- Settles O53: the two outcomes of `State.snapshot`, whose lists are `Memory.getList`. -/
theorem snapshotShowsTheState : Obligations.SnapshotShowsTheState := fun s _ _ =>
  ⟨fun inside => ⟨_, if_pos inside, s.mem.length_getList _ _, fun _ => s.mem.getD_getList _ _ _,
      s.mem.length_getList _ _, fun _ => s.mem.getD_getList _ _ _,
      rfl, rfl, rfl, rfl, rfl, rfl, rfl, rfl, rfl, rfl, rfl, rfl, rfl, rfl⟩,
    fun outside => if_neg (Nat.not_le.mpr outside), fun _ hin => step_of_event hin⟩

/-- Settles O59: the codes are literals, the other ports projections of the state. -/
theorem outputPortsShowTheState : Obligations.OutputPortsShowTheState := by
  refine ⟨⟨rfl, rfl, rfl⟩, ⟨rfl, rfl, rfl, rfl, rfl⟩, fun s k => ?_, fun _ => rfl, fun s a => ?_,
    fun _ _ _ => rfl⟩
  · exact (s.isDown_eq_of_toNat (k := k) (by rw [BitVec.toNat_setWidth_of_le (by decide)]; omega)).symm
  · have ha := a.isLt
    rw [State.readByte_eq, if_pos (by omega)]; rfl

/-! ### The strobes of one clock (R246, R247) -/

theorem applyEvents_cons_of_next {e : Event} {s t : State} (h : applyEvent e s = .next t) (es : List Event) :
    applyEvents (e :: es) s = applyEvents es t := by
  rw [applyEvents, h]

theorem applyEvents_append_of_next {es : List Event} {s t : State} (h : applyEvents es s = .next t)
    (fs : List Event) : applyEvents (es ++ fs) s = applyEvents fs t := by
  induction es generalizing s with
  | nil => cases h; rfl
  | cons e es ih =>
    obtain ⟨u, hu⟩ := applyEvent_answers e s
    rw [applyEvents_cons_of_next hu] at h
    rw [List.cons_append, applyEvents_cons_of_next hu, ih h]

/-- The snapshot is the last event of a clock (D2). -/
theorem Strobes.events_snapshot (p : Strobes) (r : Nat × Nat) :
    ({ p with snapshot := some r } : Strobes).events =
      ({ p with snapshot := none } : Strobes).events ++ [.snapshot r.1 r.2] := by
  simp [Strobes.events]

theorem State.clock_snapshot {s t : State} {p : Strobes} (h : s.clock { p with snapshot := none } = .next t)
    (r : Nat × Nat) : s.clock { p with snapshot := some r } = .next t := by
  rw [State.clock, Strobes.events_snapshot, applyEvents_append_of_next h]; rfl

/-- Key event, then the step, then the tick, when the key event ends no wait. -/
theorem State.clock_key_step_tick {s u : State} (hr : s.estate = .ready) (k : Nibble) (down : Bool)
    (h : (s.setKey (k.setWidth 8) down).engineStep = .next u) :
    s.clock ⟨false, none, some (k, down), some .step, true, none⟩ = .next u.tick := by
  have key : applyEvent (.key (k.setWidth 8) down) s = .next (s.setKey (k.setWidth 8) down) :=
    congrArg Host.Outcome.next (State.keyEvent_of_no_wait (by rw [hr]; decide) _ _)
  have engine : applyEvent .step (s.setKey (k.setWidth 8) down) = .next u := h
  show applyEvents [.key (k.setWidth 8) down, .step, .tick] s = _
  rw [applyEvents_cons_of_next key, applyEvents_cons_of_next engine]; rfl

theorem State.clock_engine_tick {s u : State} {g : EngineStrobe} (h : applyEvent g.event s = .next u) :
    s.clock ⟨false, none, none, some g, true, none⟩ = .next u.tick := by
  show applyEvents [g.event, .tick] s = _
  rw [applyEvents_cons_of_next h]; rfl

theorem State.clockSnapshot_of_next {s t : State} {p : Strobes} (h : s.clock { p with snapshot := none } = .next t)
    {base len : Nat} {n : Snapshot} (hn : t.snapshot base len = .next n) :
    s.clockSnapshot { p with snapshot := some (base, len) } = .next (some n) := by
  simp only [State.clockSnapshot, State.clock_snapshot h, hn]

theorem State.clockSnapshot_of_refused {s t : State} {p : Strobes}
    (h : s.clock { p with snapshot := none } = .next t) {base len : Nat} {e : Refusal}
    (he : t.snapshot base len = .refused e) :
    s.clockSnapshot { p with snapshot := some (base, len) } = .refused e := by
  simp only [State.clockSnapshot, State.clock_snapshot h, he]

/-- Settles O54: a clock is the list of its strobes' events, so a leading event is taken first and the snapshot last. -/
theorem clockOrderAndFramebufferPort : Obligations.ClockOrderAndFramebufferPort := by
  refine ⟨fun s load key engine tick snap => rfl, fun s rom key engine tick snap => rfl,
    fun s rom k down fits => ?_, fun s k down engine tick snap => rfl, fun s k down hr => ?_, fun s g => ?_,
    fun s t p base len h => ⟨State.clock_snapshot h _, ?_, fun inside => ?_, fun outside => ?_⟩,
    fun s r c _ hc => ?_⟩
  · have noWait : (s.loadRom rom).estate ≠ .waitingForKey := by
      rw [State.loadRom_of_fits s fits]; exact nofun
    exact congrArg Host.Outcome.next (State.keyEvent_of_no_wait noWait _ down)
  · obtain ⟨u, hu⟩ := applyEvent_answers .step (s.setKey (k.setWidth 8) down)
    exact ⟨u, hu, State.clock_key_step_tick hr k down hu⟩
  · obtain ⟨u, hu⟩ := applyEvent_answers g.event (s.setInbox [])
    exact ⟨u, (step_with_event (s := s.setInbox []) rfl g.event).trans hu, State.clock_engine_tick hu⟩
  · rw [State.clockSnapshot, h]
  · obtain ⟨shows, -⟩ := snapshotShowsTheState t base len
    obtain ⟨n, hn, -⟩ := shows inside
    exact ⟨n, hn, State.clockSnapshot_of_next h hn⟩
  · obtain ⟨-, refuses, -⟩ := snapshotShowsTheState t base len
    exact State.clockSnapshot_of_refused h (refuses outside)
  · rw [State.portFb, dispW, Nat.mul_add_div (by decide), Nat.mul_add_mod, Nat.div_eq_of_lt hc,
      Nat.mod_eq_of_lt hc, Nat.add_zero]

end Sys2Proof.Machine
